-- ==== Sys2Proof/Word.lean ====
section
/-! DEFINITION. The word types of the Lightstrip Color Engine (00_scope.md R5, 20_memory.md R46). -/

namespace Sys2Proof

/-- A byte of a port, of a command buffer or of a colour register (R12, R20, R46). -/
abbrev Byte := BitVec 8

/-- A packed RGB value, u24 (R15, R42). -/
abbrev Rgb := BitVec 24

/-- An event word, format EV64 (R52). -/
abbrev EventWord := BitVec 64

/-- The width of the `now` field of an event word and of the registers that hold a timestamp, `CLOCK_W` in this hardware
(R3, R14, R17, R52). A configured `CLOCK_W` is `Config.clockW`. -/
abbrev clockW : Nat := 32

/-- A value of the millisecond clock (R46). -/
abbrev Clock := BitVec clockW

/-- The number of bytes of the payload buffer and of a command buffer, `PAYLOAD_LEN` in this hardware (R3, R20, R55). A
configured `PAYLOAD_LEN` is `Config.payloadLen`. -/
abbrev payloadLen : Nat := 7

/-- An HSV triple of byte registers (R11, R12, R13). -/
structure Hsv where
  h : Byte
  s : Byte
  v : Byte
  deriving DecidableEq, Repr

/-- Seven bytes, byte 0 the first received (R20, R44, R55, R60): the payload buffer `PAY[0..6]`, a command buffer
`buf[0..6]`, or a radio packet. -/
structure Bytes7 where
  b0 : Byte
  b1 : Byte
  b2 : Byte
  b3 : Byte
  b4 : Byte
  b5 : Byte
  b6 : Byte
  deriving DecidableEq, Repr

end Sys2Proof
end

