-- ==== Sys2Proof/Config.lean ====
section
/-! DEFINITION. The implementation parameters of 00_scope.md R3, every literal of the spec a named field, and this
hardware's values. The block reads a `Config`; it never changes it (R4). -/

namespace Sys2Proof

/-- One of the three levels a channel of the sextant table can take: the value `v`, the graded level `n` or the low
level `m` (40_color_conversion.md R68). -/
inductive Level where
  | v
  | n
  | m
  deriving DecidableEq, Repr

/-- One row of `HSV_TABLE`: the level that each channel takes (R68). -/
structure HsvRow where
  r : Level
  g : Level
  b : Level
  deriving DecidableEq, Repr

/-- A reset colour of the configuration, before any width check (10_state.md R39 asks for that check). -/
structure HsvNat where
  h : Nat
  s : Nat
  v : Nat
  deriving DecidableEq, Repr

/-- The parameters of R3. `bcastMs` and the four radio header bytes (30_encoding.md R60) belong to the environment only. -/
structure Config where
  /-- `STRIP_LEN`, written `L`: the number of LED positions. -/
  stripLen : Nat
  /-- `RATE_MS`: the least time between animation steps. -/
  rateMs : Nat
  /-- `HUE_MAX`: the largest hue. -/
  hueMax : Nat
  /-- `SV_MAX`: the largest saturation and value. -/
  svMax : Nat
  /-- `SEXTANT`: the hue units of one sextant, and the mirror `40 - f`. -/
  sextant : Nat
  /-- `CONV_DIV`: the divisor of the conversion. -/
  convDiv : Nat
  /-- `PAYLOAD_LEN`: the bytes of a framed payload. -/
  payloadLen : Nat
  /-- `SIGB0`: the first signature byte, `'W'`. -/
  sigB0 : Byte
  /-- `SIGB1`: the second signature byte, `'x'`. -/
  sigB1 : Byte
  /-- `SIGB2`: the third signature byte, `'|'`. -/
  sigB2 : Byte
  /-- `CMD_SET`: the set-colour command letter, `'S'`. -/
  cmdSet : Byte
  /-- `CLOCK_W`: the width of the clock. -/
  clockW : Nat
  /-- `HSV_TABLE`: the channel levels of each sextant, row 0 first. -/
  hsvTable : List HsvRow
  /-- `CUR_RESET`: the current colour after power-on. -/
  curReset : HsvNat
  /-- `TGT_RESET`: the target colour after power-on. -/
  tgtReset : HsvNat
  /-- `T0`: the animation timestamp after power-on. -/
  t0 : Nat
  /-- `BCAST_MS` (environment only): the rebroadcast interval. -/
  bcastMs : Nat
  /-- The radio packet's length byte (environment only, R60). -/
  radioLen : Byte
  /-- The radio packet's signature `"WxS"` (environment only, R60). -/
  radioSig0 : Byte
  radioSig1 : Byte
  radioSig2 : Byte
  deriving DecidableEq, Repr

/-- Table T of R68. Row 6 is the unreachable boundary row, the same as row 0. -/
def Config.tableT : List HsvRow :=
  [⟨.v, .n, .m⟩, ⟨.v, .m, .n⟩, ⟨.n, .m, .v⟩, ⟨.m, .n, .v⟩, ⟨.m, .v, .n⟩, ⟨.n, .v, .m⟩, ⟨.v, .n, .m⟩]

/-- This hardware's values (R3). -/
def Config.lce : Config where
  stripLen := 5
  rateMs := 4
  hueMax := 239
  svMax := 255
  sextant := 40
  convDiv := 256
  payloadLen := Sys2Proof.payloadLen
  sigB0 := 0x57#8
  sigB1 := 0x78#8
  sigB2 := 0x7C#8
  cmdSet := 0x53#8
  clockW := Sys2Proof.clockW
  hsvTable := Config.tableT
  curReset := ⟨0, 0, 255⟩
  tgtReset := ⟨239, 255, 128⟩
  t0 := 0
  bcastMs := 5000
  radioLen := 0x06#8
  radioSig0 := 0x57#8
  radioSig1 := 0x78#8
  radioSig2 := 0x53#8

end Sys2Proof
end

