-- ==== Sys2Proof/Syntax.lean ====
section
/-! DEFINITION. The operation set: one constructor for each row of spec/opcode_table.json (30_encoding.md R51, R56).
The first six are the events on the block's ports; the last two are the commands of the 7-byte command buffer, which only
PARSE selects (R54, R86; log 21). -/

namespace Sys2Proof

/-- The operations of the Lightstrip Color Engine. -/
inductive Instr where
  /-- `UART_BYTE(b)`: one byte from the UART receiver (44_uart_framer.md R91). -/
  | uartByte (b : Byte)
  /-- `USB_CMD(buf)`: one complete command buffer from the USB transport (43_command_parser.md R89). -/
  | usbCmd (buf : Bytes7)
  /-- `TICK(now)`: one call of the animation service (41_animation_engine.md R73). -/
  | tick (now : Clock)
  /-- `RADIO_SET(h, s, v)`: a received colour (45_radio_ports.md R99). -/
  | radioSet (h s v : Byte)
  /-- `BCAST_MARK(now)`: a successful broadcast (R100). -/
  | bcastMark (now : Clock)
  /-- `READ_STATUS`: the status record (R101). -/
  | readStatus
  /-- `CMD_SET`: the `'S'` command with its six hex-digit bytes `buf[1..6]` (R87). -/
  | cmdSet (hHi hLo sHi sLo vHi vLo : Byte)
  /-- `CMD_IGNORE`: a command buffer whose letter is not `'S'` (R88). -/
  | cmdIgnore (buf : Bytes7)
  deriving DecidableEq, Repr

/-- The input ports of 60_exceptions.md R110. READ_STATUS is presented on the status port. -/
inductive Port where
  | uartIn
  | usbIn
  | tickIn
  | radioIn
  | statusOut
  deriving DecidableEq, Repr

/-- The port an event is presented on (R110); the two commands are internal and no port selects them (R54). -/
def Instr.port : Instr → Option Port
  | .uartByte _ => some .uartIn
  | .usbCmd _ => some .usbIn
  | .tick _ => some .tickIn
  | .radioSet _ _ _ => some .radioIn
  | .bcastMark _ => some .radioIn
  | .readStatus => some .statusOut
  | .cmdSet _ _ _ _ _ _ => none
  | .cmdIgnore _ => none

/-- Is the operation one of the six events of R51? -/
def Instr.isEvent (i : Instr) : Bool := i.port.isSome

end Sys2Proof
end

