-- ==== Sys2Proof/WellFormed.lean ====
section
/-! DEFINITION. What makes an operation well formed, and what makes a configuration admitted. -/

namespace Sys2Proof

/-- The operand widths of R46 are the operands' types, so the only check left is that `CMD_IGNORE` stands for a buffer
whose letter is not the set letter (30_encoding.md R56). -/
def Instr.wellFormed : Instr → Bool
  | .uartByte _ => true
  | .usbCmd _ => true
  | .tick _ => true
  | .radioSet _ _ _ => true
  | .bcastMark _ => true
  | .readStatus => true
  | .cmdSet _ _ _ _ _ _ => true
  | .cmdIgnore buf => buf.b0 != Config.lce.cmdSet

/-- A reset colour fits its registers and its hue obeys the bound (10_state.md R39). -/
def HsvNat.fits (c : Config) (x : HsvNat) : Bool :=
  decide (x.h ≤ c.hueMax) && decide (x.h < 2 ^ 8) && decide (x.s < 2 ^ 8) && decide (x.v < 2 ^ 8)

/-- The configurations a model admits: `L ≥ 1` (00_scope.md R4) and the reset colours of 10_state.md R39. The remaining
conditions are the model's (log 10): no divisor is zero (R7), each sextant has a row of the table, the largest level that CONV
can compute fits a channel (R6), a payload fits `PAY[0..6]`, the clock has a bit, and `T0` fits its register. -/
def Config.admitted (c : Config) : Bool :=
  decide (1 ≤ c.stripLen) && c.curReset.fits c && c.tgtReset.fits c
    && decide (0 < c.sextant) && decide (0 < c.convDiv) && decide (c.hueMax / c.sextant < c.hsvTable.length)
    && decide (min c.svMax 255 * c.svMax / c.convDiv < 2 ^ 8)
    && decide (1 ≤ c.payloadLen) && decide (c.payloadLen ≤ Sys2Proof.payloadLen) && decide (1 ≤ c.clockW)
    && decide (c.t0 < 2 ^ c.clockW) && decide (c.t0 < 2 ^ Sys2Proof.clockW)

end Sys2Proof
end

