-- ==== Sys2Proof/Decode.lean ====
section
/-! DEFINITION. The decoder and the encoder: the 64-bit event word EV64 (30_encoding.md R52, R53) and the 7-byte command
buffer CMD7 (R55, R56). -/

namespace Sys2Proof

/-! ### Seven bytes as one number (R44, R52: `buf[k]` sits in bits `8k+7..8k`) -/

/-- Byte `k` of the buffer; the spec has no byte 7 and above, where the last byte is answered. -/
def Bytes7.get (x : Bytes7) : Nat → Byte
  | 0 => x.b0
  | 1 => x.b1
  | 2 => x.b2
  | 3 => x.b3
  | 4 => x.b4
  | 5 => x.b5
  | _ => x.b6

/-- The buffer as 56 bits, byte 0 least significant. -/
def Bytes7.toBits (x : Bytes7) : BitVec 56 :=
  x.b6 ++ x.b5 ++ x.b4 ++ x.b3 ++ x.b2 ++ x.b1 ++ x.b0

/-- The buffer whose bits are `w`. -/
def Bytes7.ofBits (w : BitVec 56) : Bytes7 where
  b0 := w.extractLsb' 0 8
  b1 := w.extractLsb' 8 8
  b2 := w.extractLsb' 16 8
  b3 := w.extractLsb' 24 8
  b4 := w.extractLsb' 32 8
  b5 := w.extractLsb' 40 8
  b6 := w.extractLsb' 48 8

/-! ### Decoding -/

/-- Why an event word has no meaning (R53). -/
inductive DecodeError where
  /-- The tag is 6 or 7. -/
  | reservedTag
  /-- A bit of the must-be-zero column of R52 is set. -/
  | mustBeZero
  deriving DecidableEq, Repr

/-- A decoded word or the reason it has none. -/
inductive Decoded where
  | instr (i : Instr)
  | invalid (e : DecodeError)
  deriving DecidableEq, Repr

/-- The tag of an event word, `e[63:61]` (R52). -/
def eventTag (w : EventWord) : BitVec 3 := w.extractLsb' 61 3

/-- Answer the operation only if the word's must-be-zero bits are zero (R52, R53). -/
def requireZero {n : Nat} (mbz : BitVec n) (i : Instr) : Decoded :=
  if mbz = 0#n then .instr i else .invalid .mustBeZero

/-- The event of a tag, its operands taken from the fields of R52 and its must-be-zero bits checked. -/
def decodeTagged (tag : Nat) (w : EventWord) : Decoded :=
  match tag with
  | 0 => requireZero (w.extractLsb' 8 53) (.uartByte (w.extractLsb' 0 8))
  | 1 => requireZero (w.extractLsb' 56 5) (.usbCmd (Bytes7.ofBits (w.extractLsb' 0 56)))
  | 2 => requireZero (w.extractLsb' 32 29) (.tick (w.extractLsb' 0 32))
  | 3 => requireZero (w.extractLsb' 24 37) (.radioSet (w.extractLsb' 0 8) (w.extractLsb' 8 8) (w.extractLsb' 16 8))
  | 4 => requireZero (w.extractLsb' 32 29) (.bcastMark (w.extractLsb' 0 32))
  | 5 => requireZero (w.extractLsb' 0 61) .readStatus
  | _ => .invalid .reservedTag

/-- The event decoder, total on 64-bit words (R52, R53). -/
def decodeEvent (w : EventWord) : Decoded := decodeTagged (eventTag w).toNat w

/-- The command decoder of a configured block: only `buf[0]` selects the command, and every buffer selects one (R56). -/
def decodeCommandWith (c : Config) (buf : Bytes7) : Instr :=
  if buf.b0 = c.cmdSet then .cmdSet buf.b1 buf.b2 buf.b3 buf.b4 buf.b5 buf.b6 else .cmdIgnore buf

/-- The command decoder of this hardware. -/
def decodeCommand (buf : Bytes7) : Instr := decodeCommandWith Config.lce buf

/-- The two forms in which an operation is written: an event word, or a command buffer. -/
inductive Code where
  | event (w : EventWord)
  | command (buf : Bytes7)
  deriving DecidableEq, Repr

/-- The decoder of both forms. -/
def decode : Code → Decoded
  | .event w => decodeEvent w
  | .command buf => .instr (decodeCommand buf)

/-! ### Encoding, from the same columns of R52 and R55 -/

/-- The event word `USB_CMD(buf)`. -/
def usbCmdWord (buf : Bytes7) : EventWord := (1#3 ++ 0#5 : BitVec 8) ++ buf.toBits

/-- The encoder: an event's word, or a command's buffer. -/
def encode : Instr → Code
  | .uartByte b => .event ((0#3 ++ 0#53 : BitVec 56) ++ b)
  | .usbCmd buf => .event (usbCmdWord buf)
  | .tick now => .event ((2#3 ++ 0#29 : BitVec 32) ++ now)
  | .radioSet h s v => .event (((3#3 ++ 0#37 : BitVec 40) ++ v ++ s : BitVec 56) ++ h)
  | .bcastMark now => .event ((4#3 ++ 0#29 : BitVec 32) ++ now)
  | .readStatus => .event (5#3 ++ 0#61)
  | .cmdSet hHi hLo sHi sLo vHi vLo => .command ⟨Config.lce.cmdSet, hHi, hLo, sHi, sLo, vHi, vLo⟩
  | .cmdIgnore buf => .command buf

/-! ### The opcode table's event rows (spec/opcode_table.json) -/

/-- A row of the table: a word `w` is the row's if `w &&& mask = pattern`. -/
structure TableRow where
  mnemonic : String
  mask : EventWord
  pattern : EventWord
  deriving DecidableEq, Repr

/-- The six EV64 rows. -/
def eventTable : List TableRow :=
  [⟨"UART_BYTE", 0xFFFFFFFFFFFFFF00#64, 0x0000000000000000#64⟩,
   ⟨"USB_CMD", 0xFF00000000000000#64, 0x2000000000000000#64⟩,
   ⟨"TICK", 0xFFFFFFFF00000000#64, 0x4000000000000000#64⟩,
   ⟨"RADIO_SET", 0xFFFFFFFFFF000000#64, 0x6000000000000000#64⟩,
   ⟨"BCAST_MARK", 0xFFFFFFFF00000000#64, 0x8000000000000000#64⟩,
   ⟨"READ_STATUS", 0xFFFFFFFFFFFFFFFF#64, 0xA000000000000000#64⟩]

/-- Is `w` a word of the row? -/
def TableRow.hits (r : TableRow) (w : EventWord) : Bool := w &&& r.mask == r.pattern

/-- The row's mnemonic of each operation. -/
def Instr.mnemonic : Instr → String
  | .uartByte _ => "UART_BYTE"
  | .usbCmd _ => "USB_CMD"
  | .tick _ => "TICK"
  | .radioSet _ _ _ => "RADIO_SET"
  | .bcastMark _ => "BCAST_MARK"
  | .readStatus => "READ_STATUS"
  | .cmdSet _ _ _ _ _ _ => "CMD_SET"
  | .cmdIgnore _ => "CMD_IGNORE"

/-! ### The table's words for the host -/

/-- An operation of the table as its bits are numbered there. Up to 56 bits it is a command buffer (format CMD7), its
missing bytes zero; from 57 to 64 bits it is an event word (format EV64); no operation is longer (log 6). -/
def tableCode (nbits w : Nat) : Option Code :=
  if nbits ≤ 56 then some (.command (Bytes7.ofBits (BitVec.ofNat 56 (w % 2 ^ nbits))))
  else if nbits ≤ 64 then some (.event (BitVec.ofNat 64 (w % 2 ^ nbits)))
  else none

/-- The instruction of a decoded word. -/
def Decoded.instr? : Decoded → Option Instr
  | .instr i => some i
  | .invalid _ => none

/-- The instruction the decoder reads from an instruction whose bits are `w`. -/
def decodeTableWord (nbits w : Nat) : Option Instr :=
  (tableCode nbits w).bind fun c => (decode c).instr?

end Sys2Proof
end

