-- ==== Sys2Proof/Machine/State.lean ====
section
/-! DEFINITION. The state of the block (10_state.md), the reasons a step can stop, and the state after power-on. -/

namespace Sys2Proof.Machine

open Sys2Proof

/-- The node role, a 1-bit register: 0 is uncoordinated, 1 is coordinator (R16). -/
inductive Role where
  | uncoordinated
  | coordinator
  deriving DecidableEq, Repr

/-- The four framer states of `FS` (R18). Their 2-bit codes are `FramerState.code` (30_encoding.md R62). -/
inductive FramerState where
  | wait
  | sig1
  | sig2
  | buffer
  deriving DecidableEq, Repr

/-- The two strip output lines (R21). -/
inductive Line where
  | sck
  | sd
  deriving DecidableEq, Repr

/-- One write of the strip output trace (R22). A level is `true` for 1 and `false` for 0. -/
structure LineWrite where
  line : Line
  level : Bool
  deriving DecidableEq, Repr

/-- The record that READ_STATUS returns (45_radio_ports.md R101). -/
structure Status where
  role : Role
  tgt : Hsv
  btDue : Bool
  btStamp : Clock
  deriving DecidableEq, Repr

/-- The state: every register of 10_state.md section 1, and the two fields of the model's own that stand for the ports. -/
structure State where
  /-- `CUR_H`, `CUR_S`, `CUR_V`: the current colour (R12). -/
  cur : Hsv
  /-- `TGT_H`, `TGT_S`, `TGT_V`: the target colour (R13). -/
  tgt : Hsv
  /-- `T_LAST`: the rate limiter's timestamp (R14). -/
  tLast : Clock
  /-- `FRAME[0..L-1]`: the packed colour of each position (R15); its length is `L` in every state that `Inv` admits. -/
  frame : List Rgb
  /-- `ROLE` (R16). -/
  role : Role
  /-- `BT_DUE`: the Broadcast Timer holds DUE (R17). -/
  btDue : Bool
  /-- `BT_STAMP`: the Broadcast Timer's timestamp (R17). -/
  btStamp : Clock
  /-- `FS`: the framer state (R18). -/
  fs : FramerState
  /-- `PLEN`: the payload length (R19). -/
  plen : BitVec 3
  /-- `PAY[0..6]`: the payload buffer (R20). -/
  pay : Bytes7
  /-- `SD`: the level last driven on the data line (R21). -/
  sd : Bool
  /-- `SCK`: the level last driven on the clock line (R21). -/
  sck : Bool
  /-- `TRACE`: every line write, oldest first (R22). -/
  trace : List LineWrite
  /-- Model field (log 7): the records READ_STATUS has returned, oldest first (70_reset_and_hazards.md R126). -/
  statusOut : List Status
  /-- Model field (log 3): the event words presented and not yet taken, next first (R105, R110). -/
  input : List EventWord
  deriving DecidableEq, Repr

/-- Why a step stops although its event is admitted. -/
inductive Fault where
  /-- The check of 00_scope.md R6 on a store that does not fit (log 9). Raised by UART_BYTE in FS = BUFFER with PLEN = 7, where
  `PAY[PLEN]` does not exist and `PLEN + 1` does not fit, a state that no run reaches (10_state.md R26 item 5); and, in a block
  built with `CLOCK_W` below 32, by a TICK past the rate limiter or a BCAST_MARK whose `now` has more than `CLOCK_W` bits, which
  is no operand of these ports (20_memory.md R46). Safe: the machine stops and nothing is written. -/
  | storeOutOfRange
  deriving DecidableEq, Repr

/-- Why a step or a power-on has no meaning. -/
inductive Refusal where
  /-- Raised by an arm of `exec` whose instruction has no meaning yet; no arm does. Safe: the machine stops. -/
  | notModelled (mnemonic : String)
  /-- Raised by `step` on an event word with tag 6 or 7 (30_encoding.md R53). Safe: the spec refuses the word. -/
  | reservedTag
  /-- Raised by `step` on an event word with a set must-be-zero bit (R53). Safe: the spec refuses the word. -/
  | mustBeZero
  /-- Raised by `powerOnChecked` on a configuration that R4 or R39 refuses (log 10). Safe: no run exists. -/
  | badConfiguration
  deriving DecidableEq, Repr

/-- The values of the registers the spec leaves unspecified at reset (R31, R33, R36, R37). -/
structure Draw where
  frame : List Rgb
  btStamp : Clock
  pay : Bytes7
  sd : Bool
  sck : Bool
  deriving DecidableEq, Repr

/-- The state after power-on for a configuration and a draw of the unspecified registers (R28 to R38, R117). -/
def powerOn (c : Config) (d : Draw) : State where
  cur := ⟨BitVec.ofNat 8 c.curReset.h, BitVec.ofNat 8 c.curReset.s, BitVec.ofNat 8 c.curReset.v⟩
  tgt := ⟨BitVec.ofNat 8 c.tgtReset.h, BitVec.ofNat 8 c.tgtReset.s, BitVec.ofNat 8 c.tgtReset.v⟩
  tLast := BitVec.ofNat clockW c.t0
  frame := d.frame
  role := .uncoordinated
  btDue := true
  btStamp := d.btStamp
  fs := .wait
  plen := 0#3
  pay := d.pay
  sd := d.sd
  sck := d.sck
  trace := []
  statusOut := []
  input := []

/-- DESIGN CHOICE (log 1): the draw of the state after reset, every unspecified register zero. -/
def Draw.zero (c : Config) : Draw where
  frame := List.replicate c.stripLen 0#24
  btStamp := 0#32
  pay := ⟨0#8, 0#8, 0#8, 0#8, 0#8, 0#8, 0#8⟩
  sd := false
  sck := false

/-- The machine right after reset (R117), with this hardware's configuration. -/
def State.reset : State := powerOn Config.lce (Draw.zero Config.lce)

end Sys2Proof.Machine
end

