-- ==== Sys2Proof/Machine/Ops.lean ====
section
/-! DEFINITION. The named operations over the registers: one write for each register, the primitive `Emit`, the taking of
an event from the ports. The block has no memory (20_memory.md R41) and takes no exception (60_exceptions.md R102, R107),
so there is no memory operation and no exception entry here. -/

namespace Sys2Proof.Machine

open Sys2Proof

/-! ### Outcomes in sequence -/

/-- Run `f` on a next state; a fault or a refusal stays. -/
def andThen {α β : Type} (o : Host.Outcome α Fault Refusal) (f : α → Host.Outcome β Fault Refusal) :
    Host.Outcome β Fault Refusal :=
  match o with
  | .next a => f a
  | .fault r => .fault r
  | .refused r => .refused r

/-- The next state of an outcome, if it is one. -/
def nextOf {α : Type} : Host.Outcome α Fault Refusal → Option α
  | .next a => some a
  | .fault _ => none
  | .refused _ => none

/-! ### Register writes -/

/-- `CUR_* <- x` (R12). -/
def State.setCur (x : Hsv) (st : State) : State := { st with cur := x }

/-- `TGT_* <- x` (R13). -/
def State.setTgt (x : Hsv) (st : State) : State := { st with tgt := x }

/-- `T_LAST <- now` (R14). -/
def State.setTLast (now : Clock) (st : State) : State := { st with tLast := now }

/-- `FRAME[p] <- f[p]` for every `p` (R15). -/
def State.setFrame (f : List Rgb) (st : State) : State := { st with frame := f }

/-- `ROLE <- r` (R16). -/
def State.setRole (r : Role) (st : State) : State := { st with role := r }

/-- `BT_DUE <- d` (R17). -/
def State.setBtDue (d : Bool) (st : State) : State := { st with btDue := d }

/-- `BT_STAMP <- now` (R17). -/
def State.setBtStamp (now : Clock) (st : State) : State := { st with btStamp := now }

/-- `FS <- f` (R18). -/
def State.setFs (f : FramerState) (st : State) : State := { st with fs := f }

/-- `PLEN <- n` (R19). -/
def State.setPlen (n : BitVec 3) (st : State) : State := { st with plen := n }

/-- `PAY <- p` (R20). -/
def State.setPay (p : Bytes7) (st : State) : State := { st with pay := p }

/-- A record leaves the status port (R101, R126). -/
def State.logStatus (r : Status) (st : State) : State := { st with statusOut := st.statusOut ++ [r] }

/-- The event words that wait on the ports (log 3). -/
def State.setInput (ws : List EventWord) (st : State) : State := { st with input := ws }

/-- Byte `k` of the buffer replaced; there is no byte 7 and above (R20). -/
def Bytes7.set (x : Bytes7) (k : Nat) (b : Byte) : Bytes7 :=
  match k with
  | 0 => { x with b0 := b }
  | 1 => { x with b1 := b }
  | 2 => { x with b2 := b }
  | 3 => { x with b3 := b }
  | 4 => { x with b4 := b }
  | 5 => { x with b5 := b }
  | 6 => { x with b6 := b }
  | _ => x

/-- The code of a framer state in the 2-bit register `FS` (30_encoding.md R62). -/
def FramerState.code : FramerState → BitVec 2
  | .wait => 0b00#2
  | .sig1 => 0b01#2
  | .sig2 => 0b10#2
  | .buffer => 0b11#2

/-- The framer state of a code; all four codes are used (R62). -/
def FramerState.ofCode (x : BitVec 2) : FramerState :=
  match x.toNat with
  | 0 => .wait
  | 1 => .sig1
  | 2 => .sig2
  | _ => .buffer

/-- The value of the 1-bit register `ROLE` (R16). -/
def Role.bit : Role → BitVec 1
  | .uncoordinated => 0#1
  | .coordinator => 1#1

/-! ### The strip lines -/

/-- The level a line has after the writes `ws`, if it had `before` (R21). -/
def lastLevel (l : Line) (before : Bool) : List LineWrite → Bool
  | [] => before
  | w :: ws => lastLevel l (if w.line = l then w.level else before) ws

/-- The writes `ws`, one after the other: each is appended to `TRACE` and sets its line's level (00_scope.md R10). -/
def State.drive (ws : List LineWrite) (st : State) : State :=
  { st with
    trace := st.trace ++ ws
    sck := lastLevel .sck st.sck ws
    sd := lastLevel .sd st.sd ws }

/-- The primitive `Emit(line, level)` (R10). -/
def State.emitOne (l : Line) (level : Bool) (st : State) : State := st.drive [⟨l, level⟩]

/-! ### Taking an event -/

/-- The next event word of the ports and the state with it taken (R49, R105; log 3). -/
def fetch (st : State) : Option (EventWord × State) :=
  match st.input with
  | [] => none
  | w :: rest => some (w, st.setInput rest)

/-- No event is presented: the block waits, and nothing changes (R126: it never halts; log 4). -/
def idle (st : State) : Host.Outcome State Fault Refusal := .next st

/-- The refusal of an invalid event word (30_encoding.md R53). -/
def refuseWord : DecodeError → Refusal
  | .reservedTag => .reservedTag
  | .mustBeZero => .mustBeZero

/-- The event word that presents a code to the block: an event word is itself; a command buffer arrives in its direct
form, one USB_CMD (30_encoding.md R64; log 6). -/
def eventWordOf : Code → EventWord
  | .event w => w
  | .command buf => usbCmdWord buf

end Sys2Proof.Machine
end

