-- ==== Sys2Proof/Machine/Operands.lean ====
section
/-! DEFINITION. Operand assembly: the lenient hex digit decoder and the two-digit bytes of a command buffer
(30_encoding.md R57, R58; 20_memory.md R43), and the packing of a colour (20_memory.md R42). -/

namespace Sys2Proof.Machine

open Sys2Proof

/-- `HEXD(c)`: a hex digit's value, and 0 for any other byte (R57). -/
def hexd (c : Byte) : BitVec 4 :=
  if 0x30 ≤ c.toNat ∧ c.toNat ≤ 0x39 then BitVec.ofNat 4 (c.toNat - 0x30)
  else if 0x41 ≤ c.toNat ∧ c.toNat ≤ 0x46 then BitVec.ofNat 4 (c.toNat - 0x41 + 10)
  else if 0x61 ≤ c.toNat ∧ c.toNat ≤ 0x66 then BitVec.ofNat 4 (c.toNat - 0x61 + 10)
  else 0#4

/-- A byte from two hex digits, high digit first: `16*HEXD(hi) + HEXD(lo)` (R43, R58). -/
def hexPair (hi lo : Byte) : Byte := hexd hi ++ hexd lo

/-- The three operands of CMD_SET (R58). -/
def cmdSetOperands (hHi hLo sHi sLo vHi vLo : Byte) : Hsv :=
  ⟨hexPair hHi hLo, hexPair sHi sLo, hexPair vHi vLo⟩

/-- The packed colour `{b[7:0], g[7:0], r[7:0]}` (R42, R66). -/
def pack (r g b : Int) : Rgb := BitVec.ofInt 8 b ++ BitVec.ofInt 8 g ++ BitVec.ofInt 8 r

/-- The red channel of a packed colour, bits 7..0 (R42). -/
def redOf (x : Rgb) : Byte := x.extractLsb' 0 8

/-- The green channel of a packed colour, bits 15..8 (R42). -/
def greenOf (x : Rgb) : Byte := x.extractLsb' 8 8

/-- The blue channel of a packed colour, bits 23..16 (R42). -/
def blueOf (x : Rgb) : Byte := x.extractLsb' 16 8

end Sys2Proof.Machine
end

