-- ==== Sys2Proof/Machine/Flags.lean ====
section
/-! DEFINITION. The two status flags, ROLE and BT_DUE (10_state.md R24), and what the animation computes and does not
store: CHANGED and the elapsed time (41_animation_engine.md R74, R75), and the store check of a clock value. -/

namespace Sys2Proof.Machine

open Sys2Proof

/-- `ROLE <- 1`: the node becomes coordinator, permanently (R16, 44_uart_framer.md R95). -/
def State.promote (st : State) : State := st.setRole .coordinator

/-- The Broadcast Timer becomes DUE; BT_STAMP stays (R17, R24). -/
def State.markDue (st : State) : State := st.setBtDue true

/-- The Broadcast Timer becomes `now` (R17, 45_radio_ports.md R100). -/
def State.markSent (now : Clock) (st : State) : State := (st.setBtDue false).setBtStamp now

/-- An operation that stores `now` in T_LAST or BT_STAMP, registers of `CLOCK_W` bits (R14, R17), answers `t` if `now` fits
and faults if it does not: the store check of 00_scope.md R6 (log 9). This hardware's 32 bits hold every `now`. -/
def storeClock (c : Config) (now : Clock) (t : State) : Host.Outcome State Fault Refusal :=
  if now.toNat < 2 ^ c.clockW then .next t else .fault .storeOutOfRange

/-- `CHANGED`: the current colour differs from the target on some channel (R75). -/
def State.changed (st : State) : Bool :=
  st.cur.h != st.tgt.h || st.cur.s != st.tgt.s || st.cur.v != st.tgt.v

/-- The time since a stamp, modulo `2^CLOCK_W` (R74, 60_exceptions.md R109). -/
def elapsed (c : Config) (now stamp : Clock) : Nat := (((now.toNat : Int) - stamp.toNat) % 2 ^ c.clockW).toNat

end Sys2Proof.Machine
end

