-- ==== Sys2Proof/Machine/Conv.lean ====
section
/-! DEFINITION. CONV, the colour conversion HSV2RGB, on every integer (40_color_conversion.md R66 to R71). -/

namespace Sys2Proof.Machine

open Sys2Proof

/-- The value of a level in a call. -/
def Level.pick (v n m : Int) : Level → Int
  | .v => v
  | .n => n
  | .m => m

/-- The row of `HSV_TABLE` for sextant `i` (R68). A table without the row answers row 0's base arrangement (log 10). -/
def hsvRow (c : Config) (i : Nat) : HsvRow := c.hsvTable.getD i ⟨.v, .n, .m⟩

/-- A row with its levels filled in, packed (R66, R68). -/
def packRow (row : HsvRow) (v n m : Int) : Rgb :=
  pack (Level.pick v n m row.r) (Level.pick v n m row.g) (Level.pick v n m row.b)

/-- `f` in an even sextant, `40 - f` in an odd one (R66). -/
def mirrored (c : Config) (i f : Int) : Int := if i % 2 = 1 then c.sextant - f else f

/-- The low level `m = (v*(255-s))/256` (R67). -/
def levelM (c : Config) (s v : Int) : Int := (v * (c.svMax - s)) / c.convDiv

/-- The graded level `n = (v*(255 - (s*f)/40))/256` (R67). -/
def levelN (c : Config) (s v f : Int) : Int := (v * (c.svMax - (s * f) / c.sextant)) / c.convDiv

/-- `HSV2RGB(h, s, v)` (R66): the saturation and value check first (black), the hue check second (white). -/
def hsv2rgb (c : Config) (h s v : Int) : Rgb :=
  if s < 0 ∨ s > c.svMax ∨ v < 0 ∨ v > c.svMax then 0x000000#24
  else if h < 0 ∨ h > c.hueMax then 0xFFFFFF#24
  else
    packRow (hsvRow c (h / c.sextant).toNat) v (levelN c s v (mirrored c (h / c.sextant) (h % c.sextant)))
      (levelM c s v)

/-- The call that the block makes, on zero-extended registers (R71). -/
def convert (c : Config) (x : Hsv) : Rgb := hsv2rgb c x.h.toNat x.s.toNat x.v.toNat

end Sys2Proof.Machine
end

