-- ==== Sys2Proof/Machine/Strip.lean ====
section
/-! DEFINITION. SOD, the Strip Output Driver (42_strip_driver.md R81 to R85), and the strip wire format W24
(30_encoding.md R61). -/

namespace Sys2Proof.Machine

open Sys2Proof

/-- The bits of a value from bit `n - 1` down to bit 0, most significant first (R61). -/
def msbFirst {w : Nat} (x : BitVec w) : Nat → List Bool
  | 0 => []
  | n + 1 => x.getLsbD n :: msbFirst x n

/-- The 24 data bits of one position, in the order of the wire (R61). -/
def wireBits (x : Rgb) : List Bool := msbFirst x 24

/-- The three writes of one bit: clock low, data, clock high (R81). -/
def bitWrites (d : Bool) : List LineWrite := [⟨.sck, false⟩, ⟨.sd, d⟩, ⟨.sck, true⟩]

/-- The writes of one position, bit 23 first (R81). -/
def positionWrites (x : Rgb) : List LineWrite := (wireBits x).flatMap bitWrites

/-- The writes of one EMIT over a frame: every position in order, and then clock low (R81). -/
def emitWrites (frame : List Rgb) : List LineWrite := frame.flatMap positionWrites ++ [⟨.sck, false⟩]

/-- `EMIT()`: the whole frame is shifted out (R81). -/
def State.emit (st : State) : State := st.drive (emitWrites st.frame)

end Sys2Proof.Machine
end

