-- ==== Sys2Proof/Machine/Anim.lean ====
section
/-! DEFINITION. ANIM, the Color Animation Engine: SET_TARGET and TICK (41_animation_engine.md R72 to R80). -/

namespace Sys2Proof.Machine

open Sys2Proof

/-- `min(h, HUE_MAX)` (R72). -/
def clampHue (c : Config) (h : Byte) : Byte := BitVec.ofNat 8 (min h.toNat c.hueMax)

/-- `SET_TARGET(h, s, v)`: the hue is clamped, saturation and value are not, and the Broadcast Timer is DUE (R72). -/
def State.setTarget (c : Config) (x : Hsv) (st : State) : State :=
  (st.setTgt ⟨clampHue c x.h, x.s, x.v⟩).markDue

/-- `step(c, t)`: one channel, one unit toward its target (R76). -/
def stepToward (x t : Byte) : Byte :=
  if x.toNat < t.toNat then x + 1#8 else if t.toNat < x.toNat then x - 1#8 else x

/-- The three channels, each stepped on its own (R73, R76). -/
def stepHsv (cur tgt : Hsv) : Hsv := ⟨stepToward cur.h tgt.h, stepToward cur.s tgt.s, stepToward cur.v tgt.v⟩

/-- The effective part of a TICK that finds CHANGED: step, then convert the stepped colour into every `FRAME[p]`, then
EMIT (R73, R77). -/
def State.animate (c : Config) (st : State) : State :=
  let stepped := st.setCur (stepHsv st.cur st.tgt)
  (stepped.setFrame (List.replicate c.stripLen (convert c stepped.cur))).emit

/-- `TICK(now)` past the rate limiter: the stamp, and the animation if it then finds CHANGED (R73). -/
def State.pastLimiter (c : Config) (now : Clock) (st : State) : State :=
  let stamped := st.setTLast now
  if stamped.changed then stamped.animate c else stamped

/-- `TICK(now)` of a configured block: the rate limiter, and past it the store of `now`, checked, with all that follows
(R73; 00_scope.md R6). -/
def onTick (c : Config) (now : Clock) (st : State) : Host.Outcome State Fault Refusal :=
  if elapsed c now st.tLast < c.rateMs then .next st else storeClock c now (st.pastLimiter c now)

/-- The meaning of TICK (R73). -/
def execTick (now : Clock) (st : State) : Host.Outcome State Fault Refusal := onTick Config.lce now st

end Sys2Proof.Machine
end

