-- ==== Sys2Proof/Machine/Parser.lean ====
section
/-! DEFINITION. CP, the Command Grammar Parser: PARSE, CMD_SET, CMD_IGNORE and USB_CMD (43_command_parser.md R86 to R90). -/

namespace Sys2Proof.Machine

open Sys2Proof

/-- `CMD_SET`: the target from six hex digits (R87). -/
def State.cmdSet (c : Config) (hHi hLo sHi sLo vHi vLo : Byte) (st : State) : State :=
  st.setTarget c (cmdSetOperands hHi hLo sHi sLo vHi vLo)

/-- `CMD_IGNORE`: no effect (R88). -/
def State.cmdIgnore (_buf : Bytes7) (st : State) : State := st

/-- `PARSE(buf)`, also written `Dispatch(buf)`: the letter chooses the command (R86). -/
def State.parse (c : Config) (buf : Bytes7) (st : State) : State :=
  if buf.b0 = c.cmdSet then st.cmdSet c buf.b1 buf.b2 buf.b3 buf.b4 buf.b5 buf.b6 else st.cmdIgnore buf

/-- CMD_SET of a configured block (R87). -/
def onCmdSet (c : Config) (hHi hLo sHi sLo vHi vLo : Byte) (st : State) : Host.Outcome State Fault Refusal :=
  .next (st.cmdSet c hHi hLo sHi sLo vHi vLo)

/-- CMD_IGNORE, the same in every configuration (R88). -/
def onCmdIgnore (buf : Bytes7) (st : State) : Host.Outcome State Fault Refusal := .next (st.cmdIgnore buf)

/-- USB_CMD of a configured block: PARSE; ROLE and the framer's registers are not written (R89). -/
def onUsbCmd (c : Config) (buf : Bytes7) (st : State) : Host.Outcome State Fault Refusal := .next (st.parse c buf)

/-- The meaning of CMD_SET (R87). -/
def execCmdSet (hHi hLo sHi sLo vHi vLo : Byte) (st : State) : Host.Outcome State Fault Refusal :=
  onCmdSet Config.lce hHi hLo sHi sLo vHi vLo st

/-- The meaning of CMD_IGNORE (R88). -/
def execCmdIgnore (buf : Bytes7) (st : State) : Host.Outcome State Fault Refusal := onCmdIgnore buf st

/-- The meaning of USB_CMD (R89). -/
def execUsbCmd (buf : Bytes7) (st : State) : Host.Outcome State Fault Refusal := onUsbCmd Config.lce buf st

end Sys2Proof.Machine
end

