-- ==== Sys2Proof/Machine/Framer.lean ====
section
/-! DEFINITION. UFSM, the UART Framing State Machine: UART_BYTE (44_uart_framer.md R91 to R98), and the frame format UF10
(30_encoding.md R59). -/

namespace Sys2Proof.Machine

open Sys2Proof

/-- What one arm of `FRAMER_STEP` answers: the state, and whether the byte must be tried again (R91). -/
structure FramerStep where
  again : Bool
  st : State
  deriving DecidableEq, Repr

/-- The arm for WAIT (R92). -/
def framerWait (c : Config) (b : Byte) (st : State) : FramerStep :=
  ⟨false, if b = c.sigB0 then st.setFs .sig1 else st⟩

/-- The arm for SIG1 (R93). -/
def framerSig1 (c : Config) (b : Byte) (st : State) : FramerStep :=
  if b = c.sigB1 then ⟨false, st.setFs .sig2⟩ else ⟨true, st.setFs .wait⟩

/-- The arm for SIG2 (R94). -/
def framerSig2 (c : Config) (b : Byte) (st : State) : FramerStep :=
  if b = c.sigB2 then ⟨false, (st.setFs .buffer).setPlen 0#3⟩ else ⟨true, st.setFs .wait⟩

/-- `PAY[PLEN] <- b` and `PLEN <- PLEN + 1` (R95). -/
def State.collect (b : Byte) (st : State) : State :=
  (st.setPay (Bytes7.set st.pay st.plen.toNat b)).setPlen (st.plen + 1#3)

/-- The completion of a payload: ROLE, FS and then PARSE (R95). -/
def State.complete (c : Config) (st : State) : State := (st.promote.setFs .wait).parse c st.pay

/-- The arm for BUFFER (R95). With PLEN = 7 there is no `PAY[PLEN]`: the store check of R6 faults (log 9). -/
def framerBuffer (c : Config) (b : Byte) (st : State) : Host.Outcome FramerStep Fault Refusal :=
  if st.plen.toNat < payloadLen then
    .next ⟨false, if (st.collect b).plen.toNat = c.payloadLen then (st.collect b).complete c else st.collect b⟩
  else .fault .storeOutOfRange

/-- `FRAMER_STEP(b)`: the arm for the present `FS` (R91). -/
def framerStep (c : Config) (b : Byte) (st : State) : Host.Outcome FramerStep Fault Refusal :=
  match st.fs with
  | .wait => .next (framerWait c b st)
  | .sig1 => .next (framerSig1 c b st)
  | .sig2 => .next (framerSig2 c b st)
  | .buffer => framerBuffer c b st

/-- `UART_BYTE(b)`: one arm, and a second one if the first asks for the byte again (R91, R96). -/
def uartByte (c : Config) (b : Byte) (st : State) : Host.Outcome State Fault Refusal :=
  andThen (framerStep c b st) fun r =>
    if r.again then andThen (framerStep c b r.st) fun r2 => .next r2.st else .next r.st

/-- The meaning of UART_BYTE (R91). -/
def execUartByte (b : Byte) (st : State) : Host.Outcome State Fault Refusal := uartByte Config.lce b st

/-- The ten bytes of a framed command: the signature and the payload, of which a block with a shorter `PAYLOAD_LEN` takes
only the first bytes (R59, log 10). -/
def frameBytes (c : Config) (buf : Bytes7) : List Byte :=
  [c.sigB0, c.sigB1, c.sigB2] ++ [buf.b0, buf.b1, buf.b2, buf.b3, buf.b4, buf.b5, buf.b6].take c.payloadLen

end Sys2Proof.Machine
end

