-- ==== Sys2Proof/Machine/Radio.lean ====
section
/-! DEFINITION. The radio-side ports: RADIO_SET, BCAST_MARK and READ_STATUS (45_radio_ports.md R99 to R101). -/

namespace Sys2Proof.Machine

open Sys2Proof

/-- The status record of the present state; BT_STAMP is returned as it stands, also while it has no meaning (R101). -/
def statusOf (st : State) : Status := ⟨st.role, st.tgt, st.btDue, st.btStamp⟩

/-- RADIO_SET of a configured block: SET_TARGET of the three raw bytes; ROLE is neither read nor written (R99). -/
def onRadioSet (c : Config) (h s v : Byte) (st : State) : Host.Outcome State Fault Refusal :=
  .next (st.setTarget c ⟨h, s, v⟩)

/-- BCAST_MARK of a configured block: the Broadcast Timer becomes `now`, a checked store (R100; 00_scope.md R6). -/
def onBcastMark (c : Config) (now : Clock) (st : State) : Host.Outcome State Fault Refusal :=
  storeClock c now (st.markSent now)

/-- READ_STATUS, the same in every configuration: the record leaves the status port, and no register changes (R101, R48). -/
def onReadStatus (st : State) : Host.Outcome State Fault Refusal := .next (st.logStatus (statusOf st))

/-- The meaning of RADIO_SET (R99). -/
def execRadioSet (h s v : Byte) (st : State) : Host.Outcome State Fault Refusal := onRadioSet Config.lce h s v st

/-- The meaning of BCAST_MARK (R100). -/
def execBcastMark (now : Clock) (st : State) : Host.Outcome State Fault Refusal := onBcastMark Config.lce now st

/-- The meaning of READ_STATUS (R101). -/
def execReadStatus (st : State) : Host.Outcome State Fault Refusal := onReadStatus st

end Sys2Proof.Machine
end

