-- ==== Sys2Proof/Machine/Dispatch.lean ====
section
/-! DEFINITION. One arm for each operation of the table. -/

namespace Sys2Proof.Machine

open Sys2Proof

def exec (i : Instr) (s : State) : Host.Outcome State Fault Refusal :=
  match i with
  -- events (30_encoding.md R51)
  | .uartByte b => Sys2Proof.Machine.execUartByte b s
  | .usbCmd buf => Sys2Proof.Machine.execUsbCmd buf s
  | .tick now => Sys2Proof.Machine.execTick now s
  | .radioSet h sat v => Sys2Proof.Machine.execRadioSet h sat v s
  | .bcastMark now => Sys2Proof.Machine.execBcastMark now s
  | .readStatus => Sys2Proof.Machine.execReadStatus s
  -- commands of the buffer (R56)
  | .cmdSet hHi hLo sHi sLo vHi vLo => Sys2Proof.Machine.execCmdSet hHi hLo sHi sLo vHi vLo s
  | .cmdIgnore buf => Sys2Proof.Machine.execCmdIgnore buf s

end Sys2Proof.Machine
end

