-- ==== Sys2Proof/Machine/Step.lean ====
section
/-! DEFINITION. One step: the next event of the ports is taken whole, decoded and run (20_memory.md R47, R49). -/

namespace Sys2Proof.Machine

open Sys2Proof

/-- Run a decoded word, or refuse it by name (30_encoding.md R53). -/
def runDecoded (d : Decoded) (s : State) : Host.Outcome State Fault Refusal :=
  match d with
  | .instr i => exec i s
  | .invalid e => .refused (refuseWord e)

/-- One step of the machine. -/
def step (s : State) : Host.Outcome State Fault Refusal :=
  match fetch s with
  | none => idle s
  | some (w, t) => runDecoded (decodeEvent w) t

/-- `s` with the operation whose bits are `w` presented as its next event (log 5, log 6). -/
def State.withFetchWord (s : State) (nbits w : Nat) : State :=
  match tableCode nbits w with
  | none => s
  | some c => s.setInput (eventWordOf c :: s.input)

end Sys2Proof.Machine
end

