-- ==== Sys2Proof/Machine/Block.lean ====
section
/-! DEFINITION. The block of any configuration (00_scope.md R3, R4): each parameter is read from a `Config`, fixed when the
block is built, and `exec` and `step` are the block of this hardware's values. Every meaning is the same definition in both. -/

namespace Sys2Proof.Machine

open Sys2Proof

/-- What an operation does in a block built with the configuration `c`. -/
def execWith (c : Config) (i : Instr) (st : State) : Host.Outcome State Fault Refusal :=
  match i with
  | .uartByte b => uartByte c b st
  | .usbCmd buf => onUsbCmd c buf st
  | .tick now => onTick c now st
  | .radioSet h s v => onRadioSet c h s v st
  | .bcastMark now => onBcastMark c now st
  | .readStatus => onReadStatus st
  | .cmdSet hHi hLo sHi sLo vHi vLo => onCmdSet c hHi hLo sHi sLo vHi vLo st
  | .cmdIgnore buf => onCmdIgnore buf st

/-- Run a decoded word in a block built with `c`, or refuse it by name (30_encoding.md R53). -/
def runDecodedWith (c : Config) (d : Decoded) (st : State) : Host.Outcome State Fault Refusal :=
  match d with
  | .instr i => execWith c i st
  | .invalid e => .refused (refuseWord e)

/-- One step of a block built with `c`. The event words are the same for every configuration (R52). -/
def stepWith (c : Config) (st : State) : Host.Outcome State Fault Refusal :=
  match fetch st with
  | none => idle st
  | some (w, t) => runDecodedWith c (decodeEvent w) t

end Sys2Proof.Machine
end

