-- ==== Sys2Proof/Machine/Boot.lean ====
section
/-! DEFINITION. Power-on of a configured block (70_reset_and_hazards.md R117) and runs of events (R126). -/

namespace Sys2Proof.Machine

open Sys2Proof

/-- A draw has one frame entry for each LED position, and its stamp fits its register (10_state.md R15, R17, R31, R33). -/
def Draw.fits (c : Config) (d : Draw) : Bool :=
  decide (d.frame.length = c.stripLen) && decide (d.btStamp.toNat < 2 ^ c.clockW)

/-- Power-on, or the refusal of a configuration that is not admitted (00_scope.md R4, 10_state.md R39). -/
def powerOnChecked (c : Config) (d : Draw) : Host.Outcome State Fault Refusal :=
  if c.admitted then .next (powerOn c d) else .refused .badConfiguration

/-- A run of a block built with `c`: the operations in the order the environment presents them (20_memory.md R49,
70_reset_and_hazards.md R126). -/
def runEventsWith (c : Config) : List Instr → State → Host.Outcome State Fault Refusal
  | [], st => .next st
  | i :: is, st => andThen (execWith c i st) (runEventsWith c is)

/-- A run of this hardware. -/
def runEvents (evs : List Instr) (st : State) : Host.Outcome State Fault Refusal := runEventsWith Config.lce evs st

end Sys2Proof.Machine
end

