-- ==== Sys2Proof/Machine/Script.lean ====
section
/-! DEFINITION. The written event scripts of 30_encoding.md R65: lines, pseudo-events and their expansion. -/

namespace Sys2Proof.Machine

open Sys2Proof

/-- A line of an event script (R65). -/
inductive ScriptLine where
  /-- `uart 0xNN` -/
  | uart (b : Byte)
  /-- `usb "<7 chars>"` -/
  | usb (buf : Bytes7)
  /-- `tick N` -/
  | tick (n : Clock)
  /-- `radio H S V` -/
  | radio (h s v : Byte)
  /-- `mark N` -/
  | mark (n : Clock)
  /-- `status` -/
  | status
  /-- `uart "<chars>"` -/
  | uartText (bytes : List Byte)
  /-- `frame "<7 chars>"` -/
  | frame (buf : Bytes7)
  /-- `set H S V` -/
  | set (h s v : Byte)
  /-- `ticks T D N`: the times are values of the clock, so they wrap with it (log 19). -/
  | ticks (t d : Clock) (n : Nat)
  deriving DecidableEq, Repr

/-- An uppercase hex digit's byte (R65, R8). -/
def hexChar (x : BitVec 4) : Byte :=
  if x.toNat < 10 then BitVec.ofNat 8 (0x30 + x.toNat) else BitVec.ofNat 8 (0x41 + (x.toNat - 10))

/-- The high digit of `hh(x)`. -/
def hexHi (x : Byte) : Byte := hexChar (x.extractLsb' 4 4)

/-- The low digit of `hh(x)`. -/
def hexLo (x : Byte) : Byte := hexChar (x.extractLsb' 0 4)

/-- The buffer of `set H S V`: `"S" hh(H) hh(S) hh(V)`. -/
def setBuffer (c : Config) (x : Hsv) : Bytes7 :=
  ⟨c.cmdSet, hexHi x.h, hexLo x.h, hexHi x.s, hexLo x.s, hexHi x.v, hexLo x.v⟩

/-- The times `T, T+D, ..., T+(N-1)*D`. -/
def tickTimes (t d : Clock) : Nat → List Clock
  | 0 => []
  | n + 1 => t :: tickTimes (t + d) d n

/-- The events a line stands for, the letter and the signature those of the configuration (R65). -/
def ScriptLine.expand (c : Config) : ScriptLine → List Instr
  | .uart b => [.uartByte b]
  | .usb buf => [.usbCmd buf]
  | .tick n => [.tick n]
  | .radio h s v => [.radioSet h s v]
  | .mark n => [.bcastMark n]
  | .status => [.readStatus]
  | .uartText bytes => bytes.map Instr.uartByte
  | .frame buf => (frameBytes c buf).map Instr.uartByte
  | .set h s v => [.usbCmd (setBuffer c ⟨h, s, v⟩)]
  | .ticks t d n => (tickTimes t d n).map Instr.tick

/-- Run a script on a block built with `c` (R65, R126). -/
def runScript (c : Config) (lines : List ScriptLine) (st : State) : Host.Outcome State Fault Refusal :=
  runEventsWith c (lines.flatMap (ScriptLine.expand c)) st

end Sys2Proof.Machine
end

