-- ==== Sys2Proof/Machine/Node.lean ====
section
/-! DEFINITION. The environment agents of 60_exceptions.md R106, R111, R114 to R116: the radio agent's two sides, one round
of the service loop, and several nodes on a lossy medium. They act on the block only through its events (log 14, log 15). -/

namespace Sys2Proof.Machine

open Sys2Proof

/-- A node: one LCE, the radio packets its queue has received and those it has committed to send (R111). -/
structure Node where
  lce : State
  rx : List Bytes7
  tx : List Bytes7
  deriving DecidableEq, Repr

/-- The radio packet of a target colour: `0x06, 'W', 'x', 'S', H, S, V` (30_encoding.md R60). -/
def packetOf (c : Config) (x : Hsv) : Bytes7 :=
  ⟨c.radioLen, c.radioSig0, c.radioSig1, c.radioSig2, x.h, x.s, x.v⟩

/-- The four header bytes are those of a colour packet (R116). -/
def packetValid (c : Config) (p : Bytes7) : Bool :=
  p.b0 == c.radioLen && p.b1 == c.radioSig0 && p.b2 == c.radioSig1 && p.b3 == c.radioSig2

/-- The broadcast condition of R115. -/
def broadcastDue (c : Config) (now : Clock) (r : Status) : Bool :=
  decide (r.role = .coordinator) && (r.btDue || decide (c.bcastMs ≤ elapsed c now r.btStamp))

/-- What COORD decides on a record: the packet to send, if it sends one (R115). `slotFree` says whether the radio queue has
a free transmit slot. -/
def coordPacket (c : Config) (now : Clock) (slotFree : Bool) (r : Status) : Option Bytes7 :=
  if broadcastDue c now r && slotFree then some (packetOf c r.tgt) else none

/-- `COORD(now)`: READ_STATUS, and on a broadcast the packet is committed and BCAST_MARK follows (R115). -/
def Node.coord (c : Config) (now : Clock) (slotFree : Bool) (n : Node) : Host.Outcome Node Fault Refusal :=
  andThen (execWith c .readStatus n.lce) fun st =>
    match coordPacket c now slotFree (statusOf st) with
    | none => .next { n with lce := st }
    | some p => andThen (execWith c (.bcastMark now) st) fun st2 => .next { n with lce := st2, tx := n.tx ++ [p] }

/-- `PEER()`: the oldest received packet is applied if its header is valid, and released in any case (R116). -/
def Node.peer (c : Config) (n : Node) : Host.Outcome Node Fault Refusal :=
  match n.rx with
  | [] => .next n
  | p :: rest =>
    if packetValid c p then
      andThen (execWith c (.radioSet p.b4 p.b5 p.b6) n.lce) fun st => .next { n with lce := st, rx := rest }
    else .next { n with rx := rest }

/-- The radio agent's check on one service call: the coordinator side while ROLE = 1, the peer side while ROLE = 0 (R106,
R115, R116). -/
def Node.radioCheck (c : Config) (now : Clock) (slotFree : Bool) (n : Node) : Host.Outcome Node Fault Refusal :=
  match n.lce.role with
  | .coordinator => Node.coord c now slotFree n
  | .uncoordinated => Node.peer c n

/-- Is the operation an event of the UART receiver, the USB transport or the service loop's tick (R114)? The other events are
the radio agent's, which sends them only as R115 and R116 say. -/
def isServiceEvent (i : Instr) : Bool :=
  decide (i.port = some .uartIn) || decide (i.port = some .usbIn) || decide (i.port = some .tickIn)

/-- One event outside any round reaches a node from the UART receiver, the USB transport or the tick (R105, R114). An operation
that none of these agents sends does nothing. -/
def Node.serve (c : Config) (i : Instr) (n : Node) : Host.Outcome Node Fault Refusal :=
  if isServiceEvent i then andThen (execWith c i n.lce) fun st => .next { n with lce := st } else .next n

/-- What the environment brings to one round of the loop (R106): any number of buffers and bytes (N7), the time `now` of the
round's TICK, and the time `coordNow` of its coordinator check. DESIGN CHOICE (log 14): R106 names `now` for TICK only and R115
has a `COORD(now)` of its own, and the spec does not say whether the two are one reading of the clock; here they are two
values, equal or not. -/
structure RoundInput where
  usb : List Bytes7
  uart : List Byte
  now : Clock
  coordNow : Clock
  slotFree : Bool
  deriving DecidableEq, Repr

/-- The events of a round's first three services (R106). -/
def RoundInput.events (r : RoundInput) : List Instr :=
  r.usb.map Instr.usbCmd ++ r.uart.map Instr.uartByte ++ [.tick r.now]

/-- One round: transport, framing, one TICK, then the radio agent's check, at its own clock reading (R106; log 14). -/
def Node.round (c : Config) (r : RoundInput) (n : Node) : Host.Outcome Node Fault Refusal :=
  andThen (runEventsWith c r.events n.lce) fun st => Node.radioCheck c r.coordNow r.slotFree { n with lce := st }

/-- A node of a system and the configuration its block is built with. DESIGN CHOICE (log 15): R111 does not say whether the
nodes of one system may be built with different configurations (another STRIP_LEN, other reset colours); here each node has a
configuration of its own, equal to the others' or not. -/
structure Member where
  config : Config
  node : Node
  deriving DecidableEq, Repr

/-- Several nodes, each with its configuration (log 15), and the packets on the medium between them (R111). -/
structure System where
  nodes : List Member
  air : List Bytes7
  deriving DecidableEq, Repr

/-- What can happen next in a system: a node runs a round; one event of its UART, USB or tick port reaches a node, or its
radio agent makes one check, outside any round; its oldest committed packet goes on the air; a copy of a packet on the air
reaches a node (it stays, so it may arrive late or twice); a packet on the air is lost (R111). DESIGN CHOICE (log 15): R111 names
no schedule for the nodes of a system; here the actions of all nodes and of the medium come in any order, so each node sees its
events and its agent's checks in any order (R105, R114) and R106's rounds are one order among them. The radio agent's events
come only from its checks (R115, R116), and a check is not split by another event of its node. -/
inductive Action where
  | round (k : Nat) (r : RoundInput)
  | serve (k : Nat) (i : Instr)
  | radioCheck (k : Nat) (now : Clock) (slotFree : Bool)
  | transmit (k : Nat)
  | deliver (p k : Nat)
  | lose (p : Nat)
  deriving DecidableEq, Repr

/-- The system with another state of its node `k`, whose configuration stays (R4). -/
def System.setNode (k : Nat) (m : Member) (n : Node) (y : System) : System :=
  { y with nodes := y.nodes.set k { m with node := n } }

/-- A node of a system acts by itself, with its own configuration; an action that names no node does nothing. -/
def System.onNode (k : Nat) (f : Config → Node → Host.Outcome Node Fault Refusal) (y : System) :
    Host.Outcome System Fault Refusal :=
  match y.nodes[k]? with
  | none => .next y
  | some m => andThen (f m.config m.node) fun n => .next (y.setNode k m n)

/-- One action of a system, each node with its own configuration (DESIGN CHOICE, log 15). An action that names no node or no
packet does nothing. -/
def System.act (a : Action) (y : System) : Host.Outcome System Fault Refusal :=
  match a with
  | .round k r => y.onNode k fun c n => n.round c r
  | .serve k i => y.onNode k fun c n => n.serve c i
  | .radioCheck k now slotFree => y.onNode k fun c n => n.radioCheck c now slotFree
  | .transmit k =>
    match y.nodes[k]? with
    | none => .next y
    | some m =>
      match m.node.tx with
      | [] => .next y
      | p :: rest => .next { y.setNode k m { m.node with tx := rest } with air := y.air ++ [p] }
  | .deliver p k =>
    match y.air[p]?, y.nodes[k]? with
    | some q, some m => .next (y.setNode k m { m.node with rx := m.node.rx ++ [q] })
    | _, _ => .next y
  | .lose p => .next { y with air := y.air.eraseIdx p }

end Sys2Proof.Machine
end

