-- ==== Sys2Proof/Safety.lean ====
section
/-! DEFINITION. The terms the claims use: the invariants of 10_state.md R26, streams of events and their interleavings
(60_exceptions.md R105), the premises about the environment (R114, R123), and what the strip sees (30_encoding.md R61). -/

namespace Sys2Proof.Machine

open Sys2Proof

/-! ### The invariants (R26) -/

/-- What holds after power-on and after every event (R26). `frameUniform` reads item 4 through TRACE: the first TICK that
finds CHANGED is the first to write TRACE. `wholeEmits` says that TRACE is a sequence of whole EMITs (R82, R85), and the last
two say that the line registers hold the level last driven (R21). -/
structure Inv (c : Config) (st : State) : Prop where
  /-- Item 1. -/
  tgtHue : st.tgt.h.toNat ≤ c.hueMax
  /-- Item 2. -/
  curHue : st.cur.h.toNat ≤ c.hueMax
  /-- `FRAME` has `L` entries (R15). -/
  frameLength : st.frame.length = c.stripLen
  /-- Item 4. -/
  frameUniform : st.trace ≠ [] → ∃ x, st.frame = List.replicate c.stripLen x
  /-- Item 5: `PLEN ∈ 0..6` with this hardware's `PAYLOAD_LEN`. -/
  plenBound : st.fs = .buffer → st.plen.toNat < c.payloadLen
  /-- T_LAST holds `CLOCK_W` bits (R14). -/
  tLastFits : st.tLast.toNat < 2 ^ c.clockW
  /-- BT_STAMP holds `CLOCK_W` bits (R17). -/
  btStampFits : st.btStamp.toNat < 2 ^ c.clockW
  /-- TRACE is the concatenation of whole EMITs of uniform frames. -/
  wholeEmits : ∃ xs : List Rgb, st.trace = xs.flatMap fun x => emitWrites (List.replicate c.stripLen x)
  /-- SCK holds the level last written. -/
  sckLast : st.trace ≠ [] → st.sck = lastLevel .sck false st.trace
  /-- SD holds the level last written. -/
  sdLast : st.trace ≠ [] → st.sd = lastLevel .sd false st.trace

/-- The premise under which UART_BYTE completes in a block built with `c`: R26 item 5. -/
def PlenOk (c : Config) (st : State) : Prop := st.fs = .buffer → st.plen.toNat < c.payloadLen

/-- The `now` of the operation has the `CLOCK_W` bits that its port transfers (20_memory.md R46). -/
def timeFits (c : Config) : Instr → Bool
  | .tick now => decide (now.toNat < 2 ^ c.clockW)
  | .bcastMark now => decide (now.toNat < 2 ^ c.clockW)
  | .uartByte _ => true
  | .usbCmd _ => true
  | .radioSet _ _ _ => true
  | .readStatus => true
  | .cmdSet _ _ _ _ _ _ => true
  | .cmdIgnore _ => true

/-! ### Streams and interleavings (R105) -/

/-- The events of `evs` presented on a port, in order. -/
def portStream (p : Port) (evs : List Instr) : List Instr := evs.filter fun i => decide (i.port = some p)

/-- `evs` is an interleaving of the per-port streams: every operation is an event of some port, and each port's events stand
in their arrival order (R105). -/
def IsInterleaving (streams : Port → List Instr) (evs : List Instr) : Prop :=
  (∀ i ∈ evs, i.isEvent = true) ∧ ∀ p, portStream p evs = streams p

/-- No operation of the list sets the target: no command, no radio colour, and no UART byte, which could complete one. -/
def quietEvent : Instr → Bool
  | .tick _ => true
  | .bcastMark _ => true
  | .readStatus => true
  | .uartByte _ => false
  | .usbCmd _ => false
  | .radioSet _ _ _ => false
  | .cmdSet _ _ _ _ _ _ => false
  | .cmdIgnore _ => false

/-- Each time of the list goes past the rate limiter when the previous one was written to T_LAST (R79: effective ticks). -/
def EffectiveFrom (c : Config) : Clock → List Clock → Prop
  | _, [] => True
  | last, now :: rest => c.rateMs ≤ elapsed c now last ∧ EffectiveFrom c now rest

/-! ### The animation's measure (R79) -/

/-- The distance of two channel values. -/
def chanDist (x t : Byte) : Nat := max (x.toNat - t.toNat) (t.toNat - x.toNat)

/-- `D = max(|t_h - c_h|, |t_s - c_s|, |t_v - c_v|)` (R79). -/
def hsvDist (x t : Hsv) : Nat := max (chanDist x.h t.h) (max (chanDist x.s t.s) (chanDist x.v t.v))

/-- What a channel holds after `k` effective ticks: `c + sign(t - c) * min(k, |t - c|)` (R79), as an integer. -/
def chanAfter (k : Nat) (x t : Byte) : Int :=
  (x.toNat : Int) + Int.sign ((t.toNat : Int) - x.toNat) * min (k : Int) (chanDist x t)

/-! ### What the strip sees (R61, R82) -/

/-- The level of the data line at each rising edge of the clock line, from the levels the lines had before. -/
def risingSamples (sck sd : Bool) : List LineWrite → List Bool
  | [] => []
  | w :: ws =>
    match w.line with
    | .sd => risingSamples sck w.level ws
    | .sck => if !sck && w.level then sd :: risingSamples true sd ws else risingSamples w.level sd ws

/-- The writes to one line. -/
def lineWrites (l : Line) (ws : List LineWrite) : List LineWrite := ws.filter fun w => decide (w.line = l)

/-! ### What a run shows and what it hides (R27, R126) -/

/-- Two states that no output can tell apart, now or later (R27): all registers agree except FRAME, the line levels, the PAY
bytes not yet collected, and PLEN outside BUFFER. -/
structure SameToOutputs (a b : State) : Prop where
  cur : a.cur = b.cur
  tgt : a.tgt = b.tgt
  tLast : a.tLast = b.tLast
  role : a.role = b.role
  btDue : a.btDue = b.btDue
  btStamp : a.btStamp = b.btStamp
  fs : a.fs = b.fs
  plen : a.fs = .buffer → a.plen = b.plen
  pay : a.fs = .buffer → ∀ k, k < a.plen.toNat → a.pay.get k = b.pay.get k
  trace : a.trace = b.trace
  statusOut : a.statusOut = b.statusOut
  input : a.input = b.input

end Sys2Proof.Machine
end

