-- ==== Sys2Proof/Certificates/Slice0/Obligations.lean ====
section
/-! DEFINITION. The statements for the provers. Literals (239, 40, 0x57, …) are written as the spec writes them, so that a
wrong parameter of `Config.lce` would make a statement false. -/

open Sys2Proof Sys2Proof.Machine

/-! ### Power-on and configuration -/

/-- 10_state.md R28 to R38 (the spec's decisions D18, D22 to D27): for every draw of the registers the spec leaves
unspecified, the registers after power-on; and the state after reset is one of these power-on states. Which draw it is is the
model's choice (log 1), and nothing is said of it here but that it has `L` entries. -/
def Obligations.PowerOnRegisters : Prop :=
  (∀ d : Draw, powerOn Config.lce d =
    { cur := ⟨0#8, 0#8, 255#8⟩, tgt := ⟨239#8, 255#8, 128#8⟩, tLast := 0#32, frame := d.frame, role := .uncoordinated,
      btDue := true, btStamp := d.btStamp, fs := .wait, plen := 0#3, pay := d.pay, sd := d.sd, sck := d.sck, trace := [],
      statusOut := [], input := [] }) ∧
  ∃ d : Draw, d.frame.length = 5 ∧ State.reset = powerOn Config.lce d

/-- 10_state.md R32: ROLE is uncoordinated after every power-on, and no step ever clears it. -/
def Obligations.RoleStartsUncoordinatedAndIsNeverCleared : Prop :=
  (∀ c d, (powerOn c d).role = .uncoordinated) ∧
  ∀ s t, step s = .next t → s.role = .coordinator → t.role = .coordinator

/-- 00_scope.md R4 and 10_state.md R39 (decisions D3, D23): a configuration with no LED position, a reset hue above the bound
or a reset component wider than a byte is refused, and this hardware's configuration is not. -/
def Obligations.BadConfigurationsAreRefused : Prop :=
  (∀ (c : Config) (d : Draw),
    c.stripLen = 0 ∨ c.hueMax < c.curReset.h ∨ c.hueMax < c.tgtReset.h ∨
      256 ≤ c.curReset.h ∨ 256 ≤ c.curReset.s ∨ 256 ≤ c.curReset.v ∨
      256 ≤ c.tgtReset.h ∨ 256 ≤ c.tgtReset.s ∨ 256 ≤ c.tgtReset.v →
    powerOnChecked c d = .refused .badConfiguration) ∧
  ∀ d, powerOnChecked Config.lce d = .next (powerOn Config.lce d)

/-! ### CONV -/

/-- 40_color_conversion.md R66, R70: the saturation and value check comes first and gives black, the hue check second and
gives white. -/
def Obligations.ConversionChecksSaturationAndValueFirst : Prop :=
  ∀ h s v : Int,
    ((s < 0 ∨ 255 < s ∨ v < 0 ∨ 255 < v) → hsv2rgb Config.lce h s v = 0x000000#24) ∧
    (0 ≤ s → s ≤ 255 → 0 ≤ v → v ≤ 255 → (h < 0 ∨ 239 < h) → hsv2rgb Config.lce h s v = 0xFFFFFF#24)

/-- R66, R67, R68 (decision D13, table T): the three channels for a hue in sextant `i` at offset `f`, in natural-number
arithmetic with truncating division. -/
def Obligations.ConversionFollowsTheSextantTable : Prop :=
  ∀ i f s v : Nat, i < 6 → f < 40 → s ≤ 255 → v ≤ 255 →
    let g := if i % 2 = 1 then 40 - f else f
    let m := v * (255 - s) / 256
    let n := v * (255 - s * g / 40) / 256
    let x := hsv2rgb Config.lce (40 * i + f : Nat) s v
    (redOf x).toNat = [v, v, n, m, m, n].getD i 0 ∧
    (greenOf x).toNat = [n, m, m, n, v, v].getD i 0 ∧
    (blueOf x).toNat = [m, n, v, v, n, m].getD i 0

/-- R67: in any one call `m ≤ n ≤ v`, and both levels are in 0..254. -/
def Obligations.ConversionLevelsAreOrdered : Prop :=
  ∀ s v f : Int, 0 ≤ s → s ≤ 255 → 0 ≤ v → v ≤ 255 → 0 ≤ f → f ≤ 40 →
    0 ≤ levelM Config.lce s v ∧ levelM Config.lce s v ≤ levelN Config.lce s v f ∧
    levelN Config.lce s v f ≤ v ∧ levelN Config.lce s v f ≤ 254

/-- R69: the rows of neighbouring sextants meet at their shared boundary, exactly after an even row and to within one unit
after an odd one. -/
def Obligations.SextantRowsMeetAtTheBoundary : Prop :=
  ∀ (k : Nat) (s v : Int), k < 6 → 0 ≤ s → s ≤ 255 → 0 ≤ v → v ≤ 255 →
    let x := packRow (hsvRow Config.lce k) v (levelN Config.lce s v (mirrored Config.lce k 40)) (levelM Config.lce s v)
    let y := packRow (hsvRow Config.lce ((k + 1) % 6)) v
      (levelN Config.lce s v (mirrored Config.lce ((k + 1) % 6 : Nat) 0)) (levelM Config.lce s v)
    (k % 2 = 0 → x = y) ∧
    chanDist (redOf x) (redOf y) ≤ 1 ∧ chanDist (greenOf x) (greenOf y) ≤ 1 ∧ chanDist (blueOf x) (blueOf y) ≤ 1

/-- R69: between two neighbouring integer hues in range, no channel changes by more than 7. -/
def Obligations.NeighbouringHuesDifferByAtMostSeven : Prop :=
  ∀ h s v : Nat, h + 1 ≤ 239 → s ≤ 255 → v ≤ 255 →
    let x := hsv2rgb Config.lce h s v
    let y := hsv2rgb Config.lce (h + 1 : Nat) s v
    chanDist (redOf x) (redOf y) ≤ 7 ∧ chanDist (greenOf x) (greenOf y) ≤ 7 ∧ chanDist (blueOf x) (blueOf y) ≤ 7

/-- 20_memory.md R42: red in bits 7..0, green in 15..8, blue in 23..16, and on the wire blue, green, red, each most
significant bit first; CONV gives, and TICK stores, a value in this form. -/
def Obligations.PackedColourGoesOutBlueGreenRed : Prop :=
  ∀ r g b : Byte,
    (pack r.toNat g.toNat b.toNat).toNat = b.toNat * 65536 + g.toNat * 256 + r.toNat ∧
    wireBits (pack r.toNat g.toNat b.toNat) = msbFirst b 8 ++ msbFirst g 8 ++ msbFirst r 8

/-! ### ANIM -/

/-- 41_animation_engine.md R73, R74: a TICK less than 4 ms (modulo 2^32) after T_LAST has no effect at all. -/
def Obligations.TickInsideTheRateLimitDoesNothing : Prop :=
  ∀ (st : State) (now : Clock), (now - st.tLast).toNat < 4 → exec (.tick now) st = .next st

/-- R73, R74 (decision D16), R78: a TICK past the rate limiter on a converged block writes T_LAST and nothing else. -/
def Obligations.TickOnConvergedBlockWritesOnlyTheStamp : Prop :=
  ∀ (st : State) (now : Clock), 4 ≤ (now - st.tLast).toNat → st.cur = st.tgt →
    exec (.tick now) st = .next { st with tLast := now }

/-- R73, R75, R76, R77 (decisions D15, D16, D17), 42_strip_driver.md R81: a TICK past the rate limiter on a block whose
colours differ moves each channel one unit toward its target, writes the conversion of the stepped colour into all five
entries of FRAME, shifts them out once, and changes nothing else. The second clause says the same of a block built with any
admitted configuration (00_scope.md R3), with its `RATE_MS`, its `CLOCK_W` and its `L` entries, for a `now` of `CLOCK_W` bits
(20_memory.md R46); a wider one is `StoresFaultExactlyWhereTheyDoNotFit`. -/
def Obligations.TickStepsConvertsAndEmits : Prop :=
  (∀ (st : State) (now : Clock), 4 ≤ (now - st.tLast).toNat → st.cur ≠ st.tgt →
    ∃ (x : Hsv) (rgb : Rgb),
      exec (.tick now) st = .next
        { st with
          tLast := now
          cur := x
          frame := [rgb, rgb, rgb, rgb, rgb]
          trace := st.trace ++ emitWrites [rgb, rgb, rgb, rgb, rgb]
          sck := false
          sd := rgb.getLsbD 0 } ∧
      rgb = hsv2rgb Config.lce x.h.toNat x.s.toNat x.v.toNat ∧
      (x.h.toNat : Int) = st.cur.h.toNat + Int.sign (st.tgt.h.toNat - st.cur.h.toNat) ∧
      (x.s.toNat : Int) = st.cur.s.toNat + Int.sign (st.tgt.s.toNat - st.cur.s.toNat) ∧
      (x.v.toNat : Int) = st.cur.v.toNat + Int.sign (st.tgt.v.toNat - st.cur.v.toNat)) ∧
  ∀ (c : Config) (st : State) (now : Clock), c.admitted = true → now.toNat < 2 ^ c.clockW →
    (c.rateMs : Int) ≤ ((now.toNat : Int) - st.tLast.toNat) % 2 ^ c.clockW → st.cur ≠ st.tgt →
    ∃ (x : Hsv) (rgb : Rgb),
      execWith c (.tick now) st = .next
        { st with
          tLast := now
          cur := x
          frame := List.replicate c.stripLen rgb
          trace := st.trace ++ emitWrites (List.replicate c.stripLen rgb)
          sck := false
          sd := rgb.getLsbD 0 } ∧
      rgb = hsv2rgb c x.h.toNat x.s.toNat x.v.toNat ∧
      (x.h.toNat : Int) = st.cur.h.toNat + Int.sign (st.tgt.h.toNat - st.cur.h.toNat) ∧
      (x.s.toNat : Int) = st.cur.s.toNat + Int.sign (st.tgt.s.toNat - st.cur.s.toNat) ∧
      (x.v.toNat : Int) = st.cur.v.toNat + Int.sign (st.tgt.v.toNat - st.cur.v.toNat)

/-- R76 (decision D15): one step of a channel never passes the target, stays between the two values, and shortens a distance
that is not zero by exactly one. -/
def Obligations.StepNeverPassesItsTarget : Prop :=
  ∀ x t : Byte,
    min x.toNat t.toNat ≤ (stepToward x t).toNat ∧ (stepToward x t).toNat ≤ max x.toNat t.toNat ∧
    chanDist (stepToward x t) t = chanDist x t - 1 ∧ (stepToward x t = x ↔ x = t)

/-- R79: after any number of effective ticks with no SET_TARGET in between, each channel holds the closed form of R79, and one
EMIT of 361 writes was made for each tick up to the distance D and none after. -/
def Obligations.EffectiveTicksFollowTheClosedForm : Prop :=
  ∀ (st : State) (nows : List Clock), EffectiveFrom Config.lce st.tLast nows →
    ∃ t, runEvents (nows.map Instr.tick) st = .next t ∧
      (t.cur.h.toNat : Int) = chanAfter nows.length st.cur.h st.tgt.h ∧
      (t.cur.s.toNat : Int) = chanAfter nows.length st.cur.s st.tgt.s ∧
      (t.cur.v.toNat : Int) = chanAfter nows.length st.cur.v st.tgt.v ∧
      t.tgt = st.tgt ∧
      t.trace.length = st.trace.length + 361 * min nows.length (hsvDist st.cur st.tgt)

/-- R79: the current colour reaches the target after exactly `D = max(|Δh|, |Δs|, |Δv|)` effective ticks, not before. -/
def Obligations.ConvergesInExactlyTheLargestDistance : Prop :=
  ∀ (st : State) (nows : List Clock) (t : State), EffectiveFrom Config.lce st.tLast nows →
    runEvents (nows.map Instr.tick) st = .next t →
    (t.cur = t.tgt ↔ hsvDist st.cur st.tgt ≤ nows.length)

/-- R78: once the block has converged, no list of TICK, BCAST_MARK and READ_STATUS events changes the colours, FRAME, the
lines or TRACE. -/
def Obligations.ConvergedBlockStaysSilent : Prop :=
  ∀ (st : State) (evs : List Instr), st.cur = st.tgt → (∀ i ∈ evs, quietEvent i = true) →
    ∃ t, runEvents evs st = .next t ∧ t.cur = st.cur ∧ t.tgt = st.tgt ∧ t.frame = st.frame ∧ t.trace = st.trace ∧
      t.sd = st.sd ∧ t.sck = st.sck

/-- R74, 70_reset_and_hazards.md R125: two TICKs that both write the strip, with any events but TICKs between them, are at
least 4 ms apart (modulo 2^32). -/
def Obligations.StripWritesAreFourMillisecondsApart : Prop :=
  ∀ (st t u w : State) (now1 now2 : Clock) (evs : List Instr),
    exec (.tick now1) st = .next t → t.trace ≠ st.trace →
    (∀ i ∈ evs, i.port ≠ some .tickIn) → runEvents evs t = .next u →
    exec (.tick now2) u = .next w → w.trace ≠ u.trace →
    4 ≤ (now2 - now1).toNat

/-- R123: a clock that goes backwards by 1 up to 2^32 - 4 goes past the rate limiter, and T_LAST moves back. -/
def Obligations.BackwardClockPassesTheLimiter : Prop :=
  ∀ (st : State) (k : Nat), 1 ≤ k → k ≤ 2 ^ 32 - 4 →
    ∃ t, exec (.tick (st.tLast - BitVec.ofNat 32 k)) st = .next t ∧ t.tLast = st.tLast - BitVec.ofNat 32 k

/-! ### SOD -/

/-- 42_strip_driver.md R81: EMIT over any frame, as the writes in their order, the line levels at its end, and nothing else
changed. -/
def Obligations.EmitShiftsEveryPositionMostSignificantBitFirst : Prop :=
  ∀ st : State,
    let writes := (st.frame.flatMap fun x => (List.range 24).flatMap fun j =>
      [LineWrite.mk .sck false, LineWrite.mk .sd (x.getLsbD (23 - j)), LineWrite.mk .sck true]) ++ [LineWrite.mk .sck false]
    st.emit =
      { st with
        trace := st.trace ++ writes
        sck := false
        sd := match st.frame.getLast? with
          | none => st.sd
          | some x => x.getLsbD 0 }

/-- R82: one EMIT of `L` positions makes `72L + 1` writes, `48L + 1` of them to SCK and `24L` to SD. -/
def Obligations.EmitWriteCounts : Prop :=
  ∀ frame : List Rgb,
    (emitWrites frame).length = 72 * frame.length + 1 ∧
    (lineWrites .sck (emitWrites frame)).length = 48 * frame.length + 1 ∧
    (lineWrites .sd (emitWrites frame)).length = 24 * frame.length

/-- R82, 30_encoding.md R61: whatever the levels before, the data line at the rising edges of the clock line carries the
bits of every position, bit 23 first, and there are exactly `24L` rising edges. -/
def Obligations.RisingEdgesCarryTheFrame : Prop :=
  ∀ (frame : List Rgb) (sck sd : Bool),
    risingSamples sck sd (emitWrites frame) = frame.flatMap (fun x => (List.range 24).map fun j => x.getLsbD (23 - j)) ∧
    (risingSamples sck sd (emitWrites frame)).length = 24 * frame.length

/-! ### CP -/

/-- 30_encoding.md R57: the hex digit decoder on all 256 bytes. -/
def Obligations.HexDigitsDecodeLeniently : Prop :=
  ∀ c : Byte,
    (0x30 ≤ c.toNat → c.toNat ≤ 0x39 → (hexd c).toNat = c.toNat - 0x30) ∧
    (0x41 ≤ c.toNat → c.toNat ≤ 0x46 → (hexd c).toNat = c.toNat - 0x41 + 10) ∧
    (0x61 ≤ c.toNat → c.toNat ≤ 0x66 → (hexd c).toNat = c.toNat - 0x61 + 10) ∧
    (¬ (0x30 ≤ c.toNat ∧ c.toNat ≤ 0x39) → ¬ (0x41 ≤ c.toNat ∧ c.toNat ≤ 0x46) →
      ¬ (0x61 ≤ c.toNat ∧ c.toNat ≤ 0x66) → hexd c = 0#4)

/-- 30_encoding.md R56: only `buf[0]` selects the command. -/
def Obligations.OnlyTheLetterSelectsTheCommand : Prop :=
  ∀ buf : Bytes7,
    (buf.b0 = 0x53#8 → decodeCommand buf = .cmdSet buf.b1 buf.b2 buf.b3 buf.b4 buf.b5 buf.b6) ∧
    (buf.b0 ≠ 0x53#8 → decodeCommand buf = .cmdIgnore buf)

/-- 43_command_parser.md R87 with 30_encoding.md R58: CMD_SET always completes; the target is the three bytes of the six hex
digits, high digit first, with the hue clamped to 239; BT_DUE is set; nothing else changes, ROLE included. -/
def Obligations.CmdSetSetsTheTargetFromHexDigits : Prop :=
  ∀ (hHi hLo sHi sLo vHi vLo : Byte) (st : State), ∃ x : Hsv,
    exec (.cmdSet hHi hLo sHi sLo vHi vLo) st = .next { st with tgt := x, btDue := true } ∧
    x.h.toNat = min (16 * (hexd hHi).toNat + (hexd hLo).toNat) 239 ∧
    x.s.toNat = 16 * (hexd sHi).toNat + (hexd sLo).toNat ∧
    x.v.toNat = 16 * (hexd vHi).toNat + (hexd vLo).toNat

/-- R88: CMD_IGNORE completes and changes nothing; a buffer whose letter is not `'S'`, lower-case `'s'` included, is a
CMD_IGNORE; and one that a UART frame completes still sets ROLE, with the target unchanged. -/
def Obligations.CmdIgnoreChangesNothing : Prop :=
  (∀ (buf : Bytes7) (st : State), exec (.cmdIgnore buf) st = .next st) ∧
  (∀ (buf : Bytes7) (st : State), buf.b0 ≠ 0x53#8 → exec (.usbCmd buf) st = .next st) ∧
  ∀ (b : Byte) (st : State), st.fs = .buffer → st.plen = 6#3 → st.pay.b0 ≠ 0x53#8 →
    ∃ t, exec (.uartByte b) st = .next t ∧ t.role = .coordinator ∧ t.tgt = st.tgt ∧ t.btDue = st.btDue

/-- R86, R89, R90 (decision D12): every USB_CMD completes; with the letter `'S'` it is SET_TARGET of three bytes, otherwise it
has no effect; in both cases it is what the command of its buffer does, and ROLE and the framer's registers stay. -/
def Obligations.UsbCmdRunsTheCommandOfItsBuffer : Prop :=
  ∀ (buf : Bytes7) (st : State),
    exec (.usbCmd buf) st = exec (decodeCommand buf) st ∧
    (buf.b0 = 0x53#8 → ∃ x : Hsv, exec (.usbCmd buf) st = .next { st with tgt := x, btDue := true } ∧
      x.h.toNat = min (16 * (hexd buf.b1).toNat + (hexd buf.b2).toNat) 239 ∧
      x.s.toNat = 16 * (hexd buf.b3).toNat + (hexd buf.b4).toNat ∧
      x.v.toNat = 16 * (hexd buf.b5).toNat + (hexd buf.b6).toNat) ∧
    (buf.b0 ≠ 0x53#8 → exec (.usbCmd buf) st = .next st)

/-- 20_memory.md R48: repeating a USB_CMD changes nothing after the first time. -/
def Obligations.UsbCmdIsIdempotent : Prop :=
  ∀ (buf : Bytes7) (st t : State), exec (.usbCmd buf) st = .next t → exec (.usbCmd buf) t = .next t

/-! ### UFSM -/

/-- 44_uart_framer.md R92: a byte in WAIT. -/
def Obligations.UartByteInWait : Prop :=
  ∀ (b : Byte) (st : State), st.fs = .wait →
    (b = 0x57#8 → exec (.uartByte b) st = .next { st with fs := .sig1 }) ∧
    (b ≠ 0x57#8 → exec (.uartByte b) st = .next st)

/-- R93: a byte in SIG1; a byte that breaks the signature is tried again against WAIT in the same event. -/
def Obligations.UartByteInSig1 : Prop :=
  ∀ (b : Byte) (st : State), st.fs = .sig1 →
    (b = 0x78#8 → exec (.uartByte b) st = .next { st with fs := .sig2 }) ∧
    (b ≠ 0x78#8 → exec (.uartByte b) st = exec (.uartByte b) { st with fs := .wait }) ∧
    (b = 0x57#8 → exec (.uartByte b) st = .next { st with fs := .sig1 }) ∧
    (b ≠ 0x78#8 → b ≠ 0x57#8 → exec (.uartByte b) st = .next { st with fs := .wait })

/-- R94: a byte in SIG2; a byte that breaks the signature is tried again against WAIT in the same event. -/
def Obligations.UartByteInSig2 : Prop :=
  ∀ (b : Byte) (st : State), st.fs = .sig2 →
    (b = 0x7C#8 → exec (.uartByte b) st = .next { st with fs := .buffer, plen := 0#3 }) ∧
    (b ≠ 0x7C#8 → exec (.uartByte b) st = exec (.uartByte b) { st with fs := .wait }) ∧
    (b = 0x57#8 → exec (.uartByte b) st = .next { st with fs := .sig1 }) ∧
    (b ≠ 0x7C#8 → b ≠ 0x57#8 → exec (.uartByte b) st = .next { st with fs := .wait })

/-- R95: a byte in BUFFER, whatever its value. Before the seventh it is stored and counted and nothing else changes. The
seventh also sets ROLE and FS, and the state is then the one that the command of the seven bytes leaves. -/
def Obligations.UartByteInBuffer : Prop :=
  ∀ (b : Byte) (st : State), st.fs = .buffer → st.plen.toNat ≤ 6 →
    ∃ p : Bytes7, (∀ k, k < 7 → p.get k = if k = st.plen.toNat then b else st.pay.get k) ∧
      (st.plen.toNat < 6 → exec (.uartByte b) st = .next { st with pay := p, plen := st.plen + 1#3 }) ∧
      (st.plen.toNat = 6 → ∃ t, exec (.uartByte b) st = .next t ∧
        exec (decodeCommand p) { st with pay := p, plen := 7#3, role := .coordinator, fs := .wait } = .next t)

/-- R96: the first arm asks for the byte again only with FS at WAIT, and the second arm never asks. -/
def Obligations.FramerTriesAByteAtMostTwice : Prop :=
  ∀ (c : Config) (b : Byte) (st : State) (r : FramerStep), framerStep c b st = .next r → r.again = true →
    (st.fs = .sig1 ∨ st.fs = .sig2) ∧ r.st.fs = .wait ∧
    ∃ r2, framerStep c b r.st = .next r2 ∧ r2.again = false

/-- 00_scope.md R6, as the model reads it (log 9): a store that does not fit faults. In a block of any configuration a UART_BYTE
faults exactly where `PAY[PLEN]` does not exist, a TICK exactly past the rate limiter with a `now` of more than `CLOCK_W` bits,
a BCAST_MARK exactly with such a `now`, and no other operation faults; so in this hardware only the UART_BYTE can. -/
def Obligations.StoresFaultExactlyWhereTheyDoNotFit : Prop :=
  (∀ (c : Config) (b : Byte) (st : State),
    execWith c (.uartByte b) st = .fault .storeOutOfRange ↔ st.fs = .buffer ∧ st.plen = 7#3) ∧
  (∀ (c : Config) (now : Clock) (st : State),
    execWith c (.tick now) st = .fault .storeOutOfRange ↔
      (c.rateMs : Int) ≤ ((now.toNat : Int) - st.tLast.toNat) % 2 ^ c.clockW ∧ 2 ^ c.clockW ≤ now.toNat) ∧
  (∀ (c : Config) (now : Clock) (st : State),
    execWith c (.bcastMark now) st = .fault .storeOutOfRange ↔ 2 ^ c.clockW ≤ now.toNat) ∧
  (∀ (c : Config) (i : Instr) (st : State) (f : Fault), execWith c i st = .fault f →
    (∃ b, i = .uartByte b) ∨ (∃ now, i = .tick now) ∨ ∃ now, i = .bcastMark now) ∧
  ∀ (i : Instr) (st : State),
    exec i st = .fault .storeOutOfRange ↔ (∃ b, i = .uartByte b) ∧ st.fs = .buffer ∧ st.plen = 7#3

/-- 30_encoding.md R59, R64, R95, R98: from any state that is not inside a payload, the ten bytes of a framed command
complete, whatever the payload holds, and leave what the direct USB_CMD of the same buffer leaves, with ROLE set and the
framer back in WAIT. -/
def Obligations.FramedCommandIsTheDirectOnePlusPromotion : Prop :=
  ∀ (buf : Bytes7) (st : State), st.fs ≠ .buffer →
    ∃ t, runEvents ([0x57#8, 0x78#8, 0x7C#8, buf.b0, buf.b1, buf.b2, buf.b3, buf.b4, buf.b5, buf.b6].map Instr.uartByte) st
        = .next t ∧
      exec (.usbCmd buf) { st with role := .coordinator, fs := .wait, plen := 7#3, pay := buf } = .next t

/-! ### Radio-side ports -/

/-- 45_radio_ports.md R99, 41_animation_engine.md R72 (decisions D6, D19): RADIO_SET always completes, in either role; the
hue is clamped to 239, the other two bytes are stored as they are, BT_DUE is set, and nothing else changes. -/
def Obligations.RadioSetSetsTheTarget : Prop :=
  ∀ (h s v : Byte) (st : State), ∃ x : Hsv,
    exec (.radioSet h s v) st = .next { st with tgt := x, btDue := true } ∧
    x.h.toNat = min h.toNat 239 ∧ x.s = s ∧ x.v = v

/-- R100 (decision D6): BCAST_MARK always completes; it clears BT_DUE, stores the stamp and changes nothing else. -/
def Obligations.BcastMarkStoresTheStamp : Prop :=
  ∀ (now : Clock) (st : State), exec (.bcastMark now) st = .next { st with btDue := false, btStamp := now }

/-- R101 (decision D6), 20_memory.md R48: READ_STATUS always completes; the record is that of the present registers, and no
register changes (the record is appended to the model's log of records, log 7). -/
def Obligations.ReadStatusReturnsTheRecord : Prop :=
  ∀ st : State, exec .readStatus st =
    .next { st with statusOut := st.statusOut ++ [⟨st.role, st.tgt, st.btDue, st.btStamp⟩] }

/-! ### Encoding -/

/-- 30_encoding.md R52, R55, R56 (decision D11): decoding an encoded well-formed operation gives it back. -/
def Obligations.DecodeOfEncode : Prop :=
  ∀ i : Instr, i.wellFormed = true → decode (encode i) = .instr i

/-- R52, R53, R56: a word or a buffer that decodes has one meaning: it is the encoding of what it decodes to, and that is
well formed. -/
def Obligations.EncodeOfDecode : Prop :=
  ∀ (c : Code) (i : Instr), decode c = .instr i → encode i = c ∧ i.wellFormed = true

/-- R53 and spec/opcode_table.json: the decoder gives a row's operation on exactly the words of that row, and no
operation on a word of none. -/
def Obligations.DecoderAgreesWithTheOpcodeTable : Prop :=
  (∀ r ∈ eventTable, ∀ w, r.hits w = true ↔ ∃ i, decodeEvent w = .instr i ∧ i.mnemonic = r.mnemonic) ∧
  ∀ w, (∀ r ∈ eventTable, r.hits w = false) ↔ ∃ e, decodeEvent w = .invalid e

/-- The words of spec/95_test_vectors.md section 2.9. -/
def Obligations.VectorWordsDecode : Prop :=
  decodeEvent 0x0000000000000057#64 = .instr (.uartByte 0x57#8) ∧
  decodeEvent 0x0000000000000157#64 = .invalid .mustBeZero ∧
  decodeEvent 0x2030303030303053#64 = .instr (.usbCmd ⟨0x53#8, 0x30#8, 0x30#8, 0x30#8, 0x30#8, 0x30#8, 0x30#8⟩) ∧
  decodeEvent 0x400000000000000A#64 = .instr (.tick 10#32) ∧
  decodeEvent 0x4000000100000000#64 = .invalid .mustBeZero ∧
  decodeEvent 0x60000000000201FA#64 = .instr (.radioSet 250#8 1#8 2#8) ∧
  decodeEvent 0x8000000000000064#64 = .instr (.bcastMark 100#32) ∧
  decodeEvent 0xA000000000000000#64 = .instr .readStatus ∧
  decodeEvent 0xA000000000000001#64 = .invalid .mustBeZero ∧
  decodeEvent 0xC000000000000000#64 = .invalid .reservedTag ∧
  decodeEvent 0xE000000000000000#64 = .invalid .reservedTag

/-! ### The machine -/

/-- 20_memory.md R47, R49, 30_encoding.md R51: when the next word on the ports decodes, a step is the decoded operation, whole,
on the state with that word taken; and it is the step of the block built with this hardware's configuration (00_scope.md R3). -/
def Obligations.StepRunsTheDecodedEvent : Prop :=
  (∀ (s : State) (w : EventWord) (rest : List EventWord) (i : Instr), s.input = w :: rest → decodeEvent w = .instr i →
    step s = exec i { s with input := rest }) ∧
  ∀ s : State, stepWith Config.lce s = step s

/-- R53: a step on a word of no row of the opcode table is refused, as a reserved tag when the tag is 6 or 7 and as a
must-be-zero bit otherwise. -/
def Obligations.StepRefusesInvalidWords : Prop :=
  ∀ (s : State) (w : EventWord) (rest : List EventWord), s.input = w :: rest → (∀ r ∈ eventTable, r.hits w = false) →
    step s = .refused (if 6 ≤ (eventTag w).toNat then .reservedTag else .mustBeZero)

/-- 70_reset_and_hazards.md R126 and the model's reading of it (log 4): with no event presented the block waits unchanged. -/
def Obligations.StepWithoutEventWaits : Prop :=
  ∀ s : State, s.input = [] → step s = .next s

/-- The model's own (log 5, log 6): an operation of the table presented by `withFetchWord` is what the next step runs. -/
def Obligations.PresentedWordIsRun : Prop :=
  ∀ (s : State) (nbits w : Nat) (i : Instr), decodeTableWord nbits w = some i →
    step (s.withFetchWord nbits w) = exec i s

/-- 10_state.md R26: the invariants hold after power-on, for every admitted configuration and every draw. -/
def Obligations.InvariantsHoldAfterPowerOn : Prop :=
  (∀ (c : Config) (d : Draw), c.admitted = true → d.fits c = true → Inv c (powerOn c d)) ∧ Inv Config.lce State.reset

/-- R26: every step keeps the invariants; and so does every step of a block built with any admitted configuration
(00_scope.md R3, R4, 10_state.md R39), whose `L` and `HUE_MAX` its invariants speak of. -/
def Obligations.EveryStepKeepsTheInvariants : Prop :=
  (∀ s t : State, Inv Config.lce s → step s = .next t → Inv Config.lce t) ∧
  ∀ (c : Config) (s t : State), c.admitted = true → Inv c s → stepWith c s = .next t → Inv c t

/-- 60_exceptions.md R102: no admitted event faults, stalls or is refused: in every state that keeps R26 item 5, every
operation answers a next state; and so in a block built with any admitted configuration (00_scope.md R3), for a `now` of
`CLOCK_W` bits (20_memory.md R46). -/
def Obligations.EveryOperationCompletes : Prop :=
  (∀ (st : State) (i : Instr), (st.fs = .buffer → st.plen.toNat ≤ 6) → ∃ t, exec i st = .next t) ∧
  ∀ (c : Config) (st : State) (i : Instr), c.admitted = true → (st.fs = .buffer → st.plen.toNat < c.payloadLen) →
    (∀ now, i = .tick now ∨ i = .bcastMark now → now.toNat < 2 ^ c.clockW) → ∃ t, execWith c i st = .next t

/-- R102, R105, R126: from every power-on state, every interleaving of every per-port streams runs to its end, with the
invariants, in a block built with any admitted configuration (00_scope.md R3) whose times have its `CLOCK_W` bits
(20_memory.md R46); this hardware's is the second clause. -/
def Obligations.EveryInterleavingRunsToItsEnd : Prop :=
  (∀ (c : Config) (d : Draw) (streams : Port → List Instr) (evs : List Instr), c.admitted = true → d.fits c = true →
    IsInterleaving streams evs → (∀ i ∈ evs, timeFits c i = true) → ∃ t, runEventsWith c evs (powerOn c d) = .next t ∧ Inv c t) ∧
  ∀ (d : Draw) (streams : Port → List Instr) (evs : List Instr), d.frame.length = 5 → IsInterleaving streams evs →
    ∃ t, runEvents evs (powerOn Config.lce d) = .next t ∧ Inv Config.lce t

/-- 10_state.md R16, 60_exceptions.md R108: the only operation that changes ROLE is the UART_BYTE that is the seventh byte of
a payload, and it makes the node coordinator. -/
def Obligations.OnlyACompletedPayloadPromotes : Prop :=
  ∀ (i : Instr) (st t : State), exec i st = .next t →
    (t.role ≠ st.role → ∃ b, i = .uartByte b ∧ st.fs = .buffer ∧ st.plen = 6#3 ∧ t.role = .coordinator) ∧
    ∀ b, i = .uartByte b → st.fs = .buffer → st.plen = 6#3 → t.role = .coordinator

/-- R40: the access matrix. Each register is changed only by the events that the matrix gives a W. -/
def Obligations.RegistersChangeOnlyByTheirWriters : Prop :=
  ∀ (i : Instr) (st t : State), exec i st = .next t →
    ((t.cur ≠ st.cur ∨ t.tLast ≠ st.tLast ∨ t.frame ≠ st.frame ∨ t.sd ≠ st.sd ∨ t.sck ≠ st.sck ∨ t.trace ≠ st.trace) →
      ∃ now, i = .tick now) ∧
    (t.tgt ≠ st.tgt → (∃ b, i = .uartByte b ∧ t.fs = .wait ∧ st.fs = .buffer ∧ t.pay.b0 = 0x53#8) ∨
      (∃ buf, i = .usbCmd buf ∧ buf.b0 = 0x53#8) ∨ (∃ h s v, i = .radioSet h s v) ∨
      ∃ a b c d e f, i = .cmdSet a b c d e f) ∧
    (t.btDue ≠ st.btDue → (∃ b, i = .uartByte b ∧ t.fs = .wait ∧ st.fs = .buffer ∧ t.pay.b0 = 0x53#8) ∨
      (∃ buf, i = .usbCmd buf ∧ buf.b0 = 0x53#8) ∨ (∃ h s v, i = .radioSet h s v) ∨ (∃ now, i = .bcastMark now) ∨
      ∃ a b c d e f, i = .cmdSet a b c d e f) ∧
    (t.btStamp ≠ st.btStamp → ∃ now, i = .bcastMark now) ∧
    ((t.role ≠ st.role ∨ t.fs ≠ st.fs ∨ t.plen ≠ st.plen ∨ t.pay ≠ st.pay) → ∃ b, i = .uartByte b) ∧
    (t.statusOut ≠ st.statusOut → i = .readStatus) ∧
    t.input = st.input

/-- 10_state.md R22, 42_strip_driver.md R85, 70_reset_and_hazards.md R124: an operation leaves TRACE as it was, or it is a
TICK that appends one whole EMIT of the frame it wrote, `72L + 1` writes. -/
def Obligations.TraceGrowsByWholeEmits : Prop :=
  ∀ (i : Instr) (st t : State), exec i st = .next t → t.trace ≠ st.trace →
    (∃ now, i = .tick now) ∧ t.trace = st.trace ++ emitWrites t.frame ∧ t.trace.length = st.trace.length + 361

/-- 10_state.md R27: FRAME, the line levels, the bytes of PAY not yet collected and PLEN outside BUFFER can never show: two
states that differ only in these complete the same operations and still differ only in these, with the same TRACE and the
same records. -/
def Obligations.HiddenRegistersNeverShow : Prop :=
  ∀ (i : Instr) (a b t : State), SameToOutputs a b → exec i a = .next t →
    ∃ u, exec i b = .next u ∧ SameToOutputs t u

/-- R31, R36, R37 (decisions D18, D27): whatever FRAME, PAY, SD and SCK hold after power-on, every run writes the same TRACE
and returns the same records. -/
def Obligations.UnspecifiedResetValuesNeverShow : Prop :=
  ∀ (d e : Draw) (evs : List Instr) (t : State), d.btStamp = e.btStamp →
    runEvents evs (powerOn Config.lce d) = .next t →
    ∃ u, runEvents evs (powerOn Config.lce e) = .next u ∧ t.trace = u.trace ∧ t.statusOut = u.statusOut ∧
      t.role = u.role ∧ t.cur = u.cur ∧ t.tgt = u.tgt ∧ t.btDue = u.btDue ∧ t.btStamp = u.btStamp

/-! ### Environment agents -/

/-- 60_exceptions.md R115, 30_encoding.md R60: the coordinator's check sends the packet of the target and marks the broadcast
exactly when the node is coordinator, the timer is DUE or 5000 ms old, and a slot is free; otherwise it only reads. -/
def Obligations.CoordinatorBroadcastsWhenDue : Prop :=
  ∀ (now : Clock) (slotFree : Bool) (n : Node), ∃ m, Node.coord Config.lce now slotFree n = .next m ∧
    (n.lce.role = .coordinator ∧ (n.lce.btDue = true ∨ 5000 ≤ (now - n.lce.btStamp).toNat) ∧ slotFree = true →
      m.tx = n.tx ++ [⟨0x06#8, 0x57#8, 0x78#8, 0x53#8, n.lce.tgt.h, n.lce.tgt.s, n.lce.tgt.v⟩] ∧
      m.lce.btDue = false ∧ m.lce.btStamp = now) ∧
    (¬ (n.lce.role = .coordinator ∧ (n.lce.btDue = true ∨ 5000 ≤ (now - n.lce.btStamp).toNat) ∧ slotFree = true) →
      m.tx = n.tx ∧ m.lce.btDue = n.lce.btDue ∧ m.lce.btStamp = n.lce.btStamp) ∧
    m.rx = n.rx ∧ m.lce.tgt = n.lce.tgt ∧ m.lce.role = n.lce.role ∧ m.lce.trace = n.lce.trace

/-- 41_animation_engine.md R72, 60_exceptions.md R115: after a colour is set on a coordinator, by the radio or by a direct
`'S'` command, the next check with a free slot broadcasts that target, whatever the time. -/
def Obligations.SetTargetForcesTheNextBroadcast : Prop :=
  ∀ (i : Instr) (n : Node) (st : State) (now : Clock), n.lce.role = .coordinator →
    ((∃ h s v, i = .radioSet h s v) ∨ ∃ buf : Bytes7, i = .usbCmd buf ∧ buf.b0 = 0x53#8) →
    exec i n.lce = .next st →
    ∃ m, Node.coord Config.lce now true { n with lce := st } = .next m ∧
      m.tx = n.tx ++ [packetOf Config.lce st.tgt] ∧ m.lce.btDue = false

/-- R116, 30_encoding.md R60: the peer's check releases the oldest packet in any case, applies a packet with the right four
header bytes as RADIO_SET of its three colour bytes, and leaves the block alone on any other packet. -/
def Obligations.PeerAppliesValidPackets : Prop :=
  ∀ (p : Bytes7) (rest : List Bytes7) (n : Node), n.rx = p :: rest →
    (p.b0 = 0x06#8 ∧ p.b1 = 0x57#8 ∧ p.b2 = 0x78#8 ∧ p.b3 = 0x53#8 →
      ∃ st, exec (.radioSet p.b4 p.b5 p.b6) n.lce = .next st ∧
        Node.peer Config.lce n = .next { n with lce := st, rx := rest }) ∧
    (¬ (p.b0 = 0x06#8 ∧ p.b1 = 0x57#8 ∧ p.b2 = 0x78#8 ∧ p.b3 = 0x53#8) →
      Node.peer Config.lce n = .next { n with rx := rest })

/-- R111, R115, R116: the packet that a coordinator sends for an in-range target gives a peer that receives it the same
target. -/
def Obligations.BroadcastCarriesTheTargetToAPeer : Prop :=
  ∀ (x : Hsv) (rest : List Bytes7) (n : Node), x.h.toNat ≤ 239 → n.rx = packetOf Config.lce x :: rest →
    ∃ m, Node.peer Config.lce n = .next m ∧ m.lce.tgt = x ∧ m.rx = rest

/-- R106, R111, R116: a coordinator's round never takes a packet from its receive queue: it does not accept another
coordinator's broadcast. -/
def Obligations.CoordinatorsIgnoreReceivedPackets : Prop :=
  ∀ (r : RoundInput) (n m : Node), n.lce.role = .coordinator → n.round Config.lce r = .next m →
    m.rx = n.rx ∧ m.lce.role = .coordinator

/-- 30_encoding.md R65: the script line `set H S V`, in the clamped range of hues, sets exactly that target. -/
def Obligations.ScriptSetLineSetsThatTarget : Prop :=
  ∀ (h s v : Byte) (st : State), h.toNat ≤ 239 →
    runScript Config.lce [.set h s v] st = .next { st with tgt := ⟨h, s, v⟩, btDue := true }
end

