-- ==== Sys2Proof/Laws/State.lean ====
section
/-! SUPPORT. One lemma for each field under each register update, so that no proof unfolds a record update. -/

namespace Sys2Proof.Machine

open Sys2Proof

/-! ### `State.setCur` -/

@[simp] theorem State.setCur_cur (x : Hsv) (st : State) :
    (State.setCur x st).cur = x := rfl
@[simp] theorem State.setCur_tgt (x : Hsv) (st : State) :
    (State.setCur x st).tgt = st.tgt := rfl
@[simp] theorem State.setCur_tLast (x : Hsv) (st : State) :
    (State.setCur x st).tLast = st.tLast := rfl
@[simp] theorem State.setCur_frame (x : Hsv) (st : State) :
    (State.setCur x st).frame = st.frame := rfl
@[simp] theorem State.setCur_role (x : Hsv) (st : State) :
    (State.setCur x st).role = st.role := rfl
@[simp] theorem State.setCur_btDue (x : Hsv) (st : State) :
    (State.setCur x st).btDue = st.btDue := rfl
@[simp] theorem State.setCur_btStamp (x : Hsv) (st : State) :
    (State.setCur x st).btStamp = st.btStamp := rfl
@[simp] theorem State.setCur_fs (x : Hsv) (st : State) :
    (State.setCur x st).fs = st.fs := rfl
@[simp] theorem State.setCur_plen (x : Hsv) (st : State) :
    (State.setCur x st).plen = st.plen := rfl
@[simp] theorem State.setCur_pay (x : Hsv) (st : State) :
    (State.setCur x st).pay = st.pay := rfl
@[simp] theorem State.setCur_sd (x : Hsv) (st : State) :
    (State.setCur x st).sd = st.sd := rfl
@[simp] theorem State.setCur_sck (x : Hsv) (st : State) :
    (State.setCur x st).sck = st.sck := rfl
@[simp] theorem State.setCur_trace (x : Hsv) (st : State) :
    (State.setCur x st).trace = st.trace := rfl
@[simp] theorem State.setCur_statusOut (x : Hsv) (st : State) :
    (State.setCur x st).statusOut = st.statusOut := rfl
@[simp] theorem State.setCur_input (x : Hsv) (st : State) :
    (State.setCur x st).input = st.input := rfl

/-! ### `State.setTgt` -/

@[simp] theorem State.setTgt_cur (x : Hsv) (st : State) :
    (State.setTgt x st).cur = st.cur := rfl
@[simp] theorem State.setTgt_tgt (x : Hsv) (st : State) :
    (State.setTgt x st).tgt = x := rfl
@[simp] theorem State.setTgt_tLast (x : Hsv) (st : State) :
    (State.setTgt x st).tLast = st.tLast := rfl
@[simp] theorem State.setTgt_frame (x : Hsv) (st : State) :
    (State.setTgt x st).frame = st.frame := rfl
@[simp] theorem State.setTgt_role (x : Hsv) (st : State) :
    (State.setTgt x st).role = st.role := rfl
@[simp] theorem State.setTgt_btDue (x : Hsv) (st : State) :
    (State.setTgt x st).btDue = st.btDue := rfl
@[simp] theorem State.setTgt_btStamp (x : Hsv) (st : State) :
    (State.setTgt x st).btStamp = st.btStamp := rfl
@[simp] theorem State.setTgt_fs (x : Hsv) (st : State) :
    (State.setTgt x st).fs = st.fs := rfl
@[simp] theorem State.setTgt_plen (x : Hsv) (st : State) :
    (State.setTgt x st).plen = st.plen := rfl
@[simp] theorem State.setTgt_pay (x : Hsv) (st : State) :
    (State.setTgt x st).pay = st.pay := rfl
@[simp] theorem State.setTgt_sd (x : Hsv) (st : State) :
    (State.setTgt x st).sd = st.sd := rfl
@[simp] theorem State.setTgt_sck (x : Hsv) (st : State) :
    (State.setTgt x st).sck = st.sck := rfl
@[simp] theorem State.setTgt_trace (x : Hsv) (st : State) :
    (State.setTgt x st).trace = st.trace := rfl
@[simp] theorem State.setTgt_statusOut (x : Hsv) (st : State) :
    (State.setTgt x st).statusOut = st.statusOut := rfl
@[simp] theorem State.setTgt_input (x : Hsv) (st : State) :
    (State.setTgt x st).input = st.input := rfl

/-! ### `State.setTLast` -/

@[simp] theorem State.setTLast_cur (now : Clock) (st : State) :
    (State.setTLast now st).cur = st.cur := rfl
@[simp] theorem State.setTLast_tgt (now : Clock) (st : State) :
    (State.setTLast now st).tgt = st.tgt := rfl
@[simp] theorem State.setTLast_tLast (now : Clock) (st : State) :
    (State.setTLast now st).tLast = now := rfl
@[simp] theorem State.setTLast_frame (now : Clock) (st : State) :
    (State.setTLast now st).frame = st.frame := rfl
@[simp] theorem State.setTLast_role (now : Clock) (st : State) :
    (State.setTLast now st).role = st.role := rfl
@[simp] theorem State.setTLast_btDue (now : Clock) (st : State) :
    (State.setTLast now st).btDue = st.btDue := rfl
@[simp] theorem State.setTLast_btStamp (now : Clock) (st : State) :
    (State.setTLast now st).btStamp = st.btStamp := rfl
@[simp] theorem State.setTLast_fs (now : Clock) (st : State) :
    (State.setTLast now st).fs = st.fs := rfl
@[simp] theorem State.setTLast_plen (now : Clock) (st : State) :
    (State.setTLast now st).plen = st.plen := rfl
@[simp] theorem State.setTLast_pay (now : Clock) (st : State) :
    (State.setTLast now st).pay = st.pay := rfl
@[simp] theorem State.setTLast_sd (now : Clock) (st : State) :
    (State.setTLast now st).sd = st.sd := rfl
@[simp] theorem State.setTLast_sck (now : Clock) (st : State) :
    (State.setTLast now st).sck = st.sck := rfl
@[simp] theorem State.setTLast_trace (now : Clock) (st : State) :
    (State.setTLast now st).trace = st.trace := rfl
@[simp] theorem State.setTLast_statusOut (now : Clock) (st : State) :
    (State.setTLast now st).statusOut = st.statusOut := rfl
@[simp] theorem State.setTLast_input (now : Clock) (st : State) :
    (State.setTLast now st).input = st.input := rfl

/-! ### `State.setFrame` -/

@[simp] theorem State.setFrame_cur (f : List Rgb) (st : State) :
    (State.setFrame f st).cur = st.cur := rfl
@[simp] theorem State.setFrame_tgt (f : List Rgb) (st : State) :
    (State.setFrame f st).tgt = st.tgt := rfl
@[simp] theorem State.setFrame_tLast (f : List Rgb) (st : State) :
    (State.setFrame f st).tLast = st.tLast := rfl
@[simp] theorem State.setFrame_frame (f : List Rgb) (st : State) :
    (State.setFrame f st).frame = f := rfl
@[simp] theorem State.setFrame_role (f : List Rgb) (st : State) :
    (State.setFrame f st).role = st.role := rfl
@[simp] theorem State.setFrame_btDue (f : List Rgb) (st : State) :
    (State.setFrame f st).btDue = st.btDue := rfl
@[simp] theorem State.setFrame_btStamp (f : List Rgb) (st : State) :
    (State.setFrame f st).btStamp = st.btStamp := rfl
@[simp] theorem State.setFrame_fs (f : List Rgb) (st : State) :
    (State.setFrame f st).fs = st.fs := rfl
@[simp] theorem State.setFrame_plen (f : List Rgb) (st : State) :
    (State.setFrame f st).plen = st.plen := rfl
@[simp] theorem State.setFrame_pay (f : List Rgb) (st : State) :
    (State.setFrame f st).pay = st.pay := rfl
@[simp] theorem State.setFrame_sd (f : List Rgb) (st : State) :
    (State.setFrame f st).sd = st.sd := rfl
@[simp] theorem State.setFrame_sck (f : List Rgb) (st : State) :
    (State.setFrame f st).sck = st.sck := rfl
@[simp] theorem State.setFrame_trace (f : List Rgb) (st : State) :
    (State.setFrame f st).trace = st.trace := rfl
@[simp] theorem State.setFrame_statusOut (f : List Rgb) (st : State) :
    (State.setFrame f st).statusOut = st.statusOut := rfl
@[simp] theorem State.setFrame_input (f : List Rgb) (st : State) :
    (State.setFrame f st).input = st.input := rfl

/-! ### `State.setRole` -/

@[simp] theorem State.setRole_cur (r : Role) (st : State) :
    (State.setRole r st).cur = st.cur := rfl
@[simp] theorem State.setRole_tgt (r : Role) (st : State) :
    (State.setRole r st).tgt = st.tgt := rfl
@[simp] theorem State.setRole_tLast (r : Role) (st : State) :
    (State.setRole r st).tLast = st.tLast := rfl
@[simp] theorem State.setRole_frame (r : Role) (st : State) :
    (State.setRole r st).frame = st.frame := rfl
@[simp] theorem State.setRole_role (r : Role) (st : State) :
    (State.setRole r st).role = r := rfl
@[simp] theorem State.setRole_btDue (r : Role) (st : State) :
    (State.setRole r st).btDue = st.btDue := rfl
@[simp] theorem State.setRole_btStamp (r : Role) (st : State) :
    (State.setRole r st).btStamp = st.btStamp := rfl
@[simp] theorem State.setRole_fs (r : Role) (st : State) :
    (State.setRole r st).fs = st.fs := rfl
@[simp] theorem State.setRole_plen (r : Role) (st : State) :
    (State.setRole r st).plen = st.plen := rfl
@[simp] theorem State.setRole_pay (r : Role) (st : State) :
    (State.setRole r st).pay = st.pay := rfl
@[simp] theorem State.setRole_sd (r : Role) (st : State) :
    (State.setRole r st).sd = st.sd := rfl
@[simp] theorem State.setRole_sck (r : Role) (st : State) :
    (State.setRole r st).sck = st.sck := rfl
@[simp] theorem State.setRole_trace (r : Role) (st : State) :
    (State.setRole r st).trace = st.trace := rfl
@[simp] theorem State.setRole_statusOut (r : Role) (st : State) :
    (State.setRole r st).statusOut = st.statusOut := rfl
@[simp] theorem State.setRole_input (r : Role) (st : State) :
    (State.setRole r st).input = st.input := rfl

/-! ### `State.setBtDue` -/

@[simp] theorem State.setBtDue_cur (d : Bool) (st : State) :
    (State.setBtDue d st).cur = st.cur := rfl
@[simp] theorem State.setBtDue_tgt (d : Bool) (st : State) :
    (State.setBtDue d st).tgt = st.tgt := rfl
@[simp] theorem State.setBtDue_tLast (d : Bool) (st : State) :
    (State.setBtDue d st).tLast = st.tLast := rfl
@[simp] theorem State.setBtDue_frame (d : Bool) (st : State) :
    (State.setBtDue d st).frame = st.frame := rfl
@[simp] theorem State.setBtDue_role (d : Bool) (st : State) :
    (State.setBtDue d st).role = st.role := rfl
@[simp] theorem State.setBtDue_btDue (d : Bool) (st : State) :
    (State.setBtDue d st).btDue = d := rfl
@[simp] theorem State.setBtDue_btStamp (d : Bool) (st : State) :
    (State.setBtDue d st).btStamp = st.btStamp := rfl
@[simp] theorem State.setBtDue_fs (d : Bool) (st : State) :
    (State.setBtDue d st).fs = st.fs := rfl
@[simp] theorem State.setBtDue_plen (d : Bool) (st : State) :
    (State.setBtDue d st).plen = st.plen := rfl
@[simp] theorem State.setBtDue_pay (d : Bool) (st : State) :
    (State.setBtDue d st).pay = st.pay := rfl
@[simp] theorem State.setBtDue_sd (d : Bool) (st : State) :
    (State.setBtDue d st).sd = st.sd := rfl
@[simp] theorem State.setBtDue_sck (d : Bool) (st : State) :
    (State.setBtDue d st).sck = st.sck := rfl
@[simp] theorem State.setBtDue_trace (d : Bool) (st : State) :
    (State.setBtDue d st).trace = st.trace := rfl
@[simp] theorem State.setBtDue_statusOut (d : Bool) (st : State) :
    (State.setBtDue d st).statusOut = st.statusOut := rfl
@[simp] theorem State.setBtDue_input (d : Bool) (st : State) :
    (State.setBtDue d st).input = st.input := rfl

/-! ### `State.setBtStamp` -/

@[simp] theorem State.setBtStamp_cur (now : Clock) (st : State) :
    (State.setBtStamp now st).cur = st.cur := rfl
@[simp] theorem State.setBtStamp_tgt (now : Clock) (st : State) :
    (State.setBtStamp now st).tgt = st.tgt := rfl
@[simp] theorem State.setBtStamp_tLast (now : Clock) (st : State) :
    (State.setBtStamp now st).tLast = st.tLast := rfl
@[simp] theorem State.setBtStamp_frame (now : Clock) (st : State) :
    (State.setBtStamp now st).frame = st.frame := rfl
@[simp] theorem State.setBtStamp_role (now : Clock) (st : State) :
    (State.setBtStamp now st).role = st.role := rfl
@[simp] theorem State.setBtStamp_btDue (now : Clock) (st : State) :
    (State.setBtStamp now st).btDue = st.btDue := rfl
@[simp] theorem State.setBtStamp_btStamp (now : Clock) (st : State) :
    (State.setBtStamp now st).btStamp = now := rfl
@[simp] theorem State.setBtStamp_fs (now : Clock) (st : State) :
    (State.setBtStamp now st).fs = st.fs := rfl
@[simp] theorem State.setBtStamp_plen (now : Clock) (st : State) :
    (State.setBtStamp now st).plen = st.plen := rfl
@[simp] theorem State.setBtStamp_pay (now : Clock) (st : State) :
    (State.setBtStamp now st).pay = st.pay := rfl
@[simp] theorem State.setBtStamp_sd (now : Clock) (st : State) :
    (State.setBtStamp now st).sd = st.sd := rfl
@[simp] theorem State.setBtStamp_sck (now : Clock) (st : State) :
    (State.setBtStamp now st).sck = st.sck := rfl
@[simp] theorem State.setBtStamp_trace (now : Clock) (st : State) :
    (State.setBtStamp now st).trace = st.trace := rfl
@[simp] theorem State.setBtStamp_statusOut (now : Clock) (st : State) :
    (State.setBtStamp now st).statusOut = st.statusOut := rfl
@[simp] theorem State.setBtStamp_input (now : Clock) (st : State) :
    (State.setBtStamp now st).input = st.input := rfl

/-! ### `State.setFs` -/

@[simp] theorem State.setFs_cur (f : FramerState) (st : State) :
    (State.setFs f st).cur = st.cur := rfl
@[simp] theorem State.setFs_tgt (f : FramerState) (st : State) :
    (State.setFs f st).tgt = st.tgt := rfl
@[simp] theorem State.setFs_tLast (f : FramerState) (st : State) :
    (State.setFs f st).tLast = st.tLast := rfl
@[simp] theorem State.setFs_frame (f : FramerState) (st : State) :
    (State.setFs f st).frame = st.frame := rfl
@[simp] theorem State.setFs_role (f : FramerState) (st : State) :
    (State.setFs f st).role = st.role := rfl
@[simp] theorem State.setFs_btDue (f : FramerState) (st : State) :
    (State.setFs f st).btDue = st.btDue := rfl
@[simp] theorem State.setFs_btStamp (f : FramerState) (st : State) :
    (State.setFs f st).btStamp = st.btStamp := rfl
@[simp] theorem State.setFs_fs (f : FramerState) (st : State) :
    (State.setFs f st).fs = f := rfl
@[simp] theorem State.setFs_plen (f : FramerState) (st : State) :
    (State.setFs f st).plen = st.plen := rfl
@[simp] theorem State.setFs_pay (f : FramerState) (st : State) :
    (State.setFs f st).pay = st.pay := rfl
@[simp] theorem State.setFs_sd (f : FramerState) (st : State) :
    (State.setFs f st).sd = st.sd := rfl
@[simp] theorem State.setFs_sck (f : FramerState) (st : State) :
    (State.setFs f st).sck = st.sck := rfl
@[simp] theorem State.setFs_trace (f : FramerState) (st : State) :
    (State.setFs f st).trace = st.trace := rfl
@[simp] theorem State.setFs_statusOut (f : FramerState) (st : State) :
    (State.setFs f st).statusOut = st.statusOut := rfl
@[simp] theorem State.setFs_input (f : FramerState) (st : State) :
    (State.setFs f st).input = st.input := rfl

/-! ### `State.setPlen` -/

@[simp] theorem State.setPlen_cur (n : BitVec 3) (st : State) :
    (State.setPlen n st).cur = st.cur := rfl
@[simp] theorem State.setPlen_tgt (n : BitVec 3) (st : State) :
    (State.setPlen n st).tgt = st.tgt := rfl
@[simp] theorem State.setPlen_tLast (n : BitVec 3) (st : State) :
    (State.setPlen n st).tLast = st.tLast := rfl
@[simp] theorem State.setPlen_frame (n : BitVec 3) (st : State) :
    (State.setPlen n st).frame = st.frame := rfl
@[simp] theorem State.setPlen_role (n : BitVec 3) (st : State) :
    (State.setPlen n st).role = st.role := rfl
@[simp] theorem State.setPlen_btDue (n : BitVec 3) (st : State) :
    (State.setPlen n st).btDue = st.btDue := rfl
@[simp] theorem State.setPlen_btStamp (n : BitVec 3) (st : State) :
    (State.setPlen n st).btStamp = st.btStamp := rfl
@[simp] theorem State.setPlen_fs (n : BitVec 3) (st : State) :
    (State.setPlen n st).fs = st.fs := rfl
@[simp] theorem State.setPlen_plen (n : BitVec 3) (st : State) :
    (State.setPlen n st).plen = n := rfl
@[simp] theorem State.setPlen_pay (n : BitVec 3) (st : State) :
    (State.setPlen n st).pay = st.pay := rfl
@[simp] theorem State.setPlen_sd (n : BitVec 3) (st : State) :
    (State.setPlen n st).sd = st.sd := rfl
@[simp] theorem State.setPlen_sck (n : BitVec 3) (st : State) :
    (State.setPlen n st).sck = st.sck := rfl
@[simp] theorem State.setPlen_trace (n : BitVec 3) (st : State) :
    (State.setPlen n st).trace = st.trace := rfl
@[simp] theorem State.setPlen_statusOut (n : BitVec 3) (st : State) :
    (State.setPlen n st).statusOut = st.statusOut := rfl
@[simp] theorem State.setPlen_input (n : BitVec 3) (st : State) :
    (State.setPlen n st).input = st.input := rfl

/-! ### `State.setPay` -/

@[simp] theorem State.setPay_cur (p : Bytes7) (st : State) :
    (State.setPay p st).cur = st.cur := rfl
@[simp] theorem State.setPay_tgt (p : Bytes7) (st : State) :
    (State.setPay p st).tgt = st.tgt := rfl
@[simp] theorem State.setPay_tLast (p : Bytes7) (st : State) :
    (State.setPay p st).tLast = st.tLast := rfl
@[simp] theorem State.setPay_frame (p : Bytes7) (st : State) :
    (State.setPay p st).frame = st.frame := rfl
@[simp] theorem State.setPay_role (p : Bytes7) (st : State) :
    (State.setPay p st).role = st.role := rfl
@[simp] theorem State.setPay_btDue (p : Bytes7) (st : State) :
    (State.setPay p st).btDue = st.btDue := rfl
@[simp] theorem State.setPay_btStamp (p : Bytes7) (st : State) :
    (State.setPay p st).btStamp = st.btStamp := rfl
@[simp] theorem State.setPay_fs (p : Bytes7) (st : State) :
    (State.setPay p st).fs = st.fs := rfl
@[simp] theorem State.setPay_plen (p : Bytes7) (st : State) :
    (State.setPay p st).plen = st.plen := rfl
@[simp] theorem State.setPay_pay (p : Bytes7) (st : State) :
    (State.setPay p st).pay = p := rfl
@[simp] theorem State.setPay_sd (p : Bytes7) (st : State) :
    (State.setPay p st).sd = st.sd := rfl
@[simp] theorem State.setPay_sck (p : Bytes7) (st : State) :
    (State.setPay p st).sck = st.sck := rfl
@[simp] theorem State.setPay_trace (p : Bytes7) (st : State) :
    (State.setPay p st).trace = st.trace := rfl
@[simp] theorem State.setPay_statusOut (p : Bytes7) (st : State) :
    (State.setPay p st).statusOut = st.statusOut := rfl
@[simp] theorem State.setPay_input (p : Bytes7) (st : State) :
    (State.setPay p st).input = st.input := rfl

/-! ### `State.logStatus` -/

@[simp] theorem State.logStatus_cur (r : Status) (st : State) :
    (State.logStatus r st).cur = st.cur := rfl
@[simp] theorem State.logStatus_tgt (r : Status) (st : State) :
    (State.logStatus r st).tgt = st.tgt := rfl
@[simp] theorem State.logStatus_tLast (r : Status) (st : State) :
    (State.logStatus r st).tLast = st.tLast := rfl
@[simp] theorem State.logStatus_frame (r : Status) (st : State) :
    (State.logStatus r st).frame = st.frame := rfl
@[simp] theorem State.logStatus_role (r : Status) (st : State) :
    (State.logStatus r st).role = st.role := rfl
@[simp] theorem State.logStatus_btDue (r : Status) (st : State) :
    (State.logStatus r st).btDue = st.btDue := rfl
@[simp] theorem State.logStatus_btStamp (r : Status) (st : State) :
    (State.logStatus r st).btStamp = st.btStamp := rfl
@[simp] theorem State.logStatus_fs (r : Status) (st : State) :
    (State.logStatus r st).fs = st.fs := rfl
@[simp] theorem State.logStatus_plen (r : Status) (st : State) :
    (State.logStatus r st).plen = st.plen := rfl
@[simp] theorem State.logStatus_pay (r : Status) (st : State) :
    (State.logStatus r st).pay = st.pay := rfl
@[simp] theorem State.logStatus_sd (r : Status) (st : State) :
    (State.logStatus r st).sd = st.sd := rfl
@[simp] theorem State.logStatus_sck (r : Status) (st : State) :
    (State.logStatus r st).sck = st.sck := rfl
@[simp] theorem State.logStatus_trace (r : Status) (st : State) :
    (State.logStatus r st).trace = st.trace := rfl
@[simp] theorem State.logStatus_statusOut (r : Status) (st : State) :
    (State.logStatus r st).statusOut = st.statusOut ++ [r] := rfl
@[simp] theorem State.logStatus_input (r : Status) (st : State) :
    (State.logStatus r st).input = st.input := rfl

/-! ### `State.setInput` -/

@[simp] theorem State.setInput_cur (ws : List EventWord) (st : State) :
    (State.setInput ws st).cur = st.cur := rfl
@[simp] theorem State.setInput_tgt (ws : List EventWord) (st : State) :
    (State.setInput ws st).tgt = st.tgt := rfl
@[simp] theorem State.setInput_tLast (ws : List EventWord) (st : State) :
    (State.setInput ws st).tLast = st.tLast := rfl
@[simp] theorem State.setInput_frame (ws : List EventWord) (st : State) :
    (State.setInput ws st).frame = st.frame := rfl
@[simp] theorem State.setInput_role (ws : List EventWord) (st : State) :
    (State.setInput ws st).role = st.role := rfl
@[simp] theorem State.setInput_btDue (ws : List EventWord) (st : State) :
    (State.setInput ws st).btDue = st.btDue := rfl
@[simp] theorem State.setInput_btStamp (ws : List EventWord) (st : State) :
    (State.setInput ws st).btStamp = st.btStamp := rfl
@[simp] theorem State.setInput_fs (ws : List EventWord) (st : State) :
    (State.setInput ws st).fs = st.fs := rfl
@[simp] theorem State.setInput_plen (ws : List EventWord) (st : State) :
    (State.setInput ws st).plen = st.plen := rfl
@[simp] theorem State.setInput_pay (ws : List EventWord) (st : State) :
    (State.setInput ws st).pay = st.pay := rfl
@[simp] theorem State.setInput_sd (ws : List EventWord) (st : State) :
    (State.setInput ws st).sd = st.sd := rfl
@[simp] theorem State.setInput_sck (ws : List EventWord) (st : State) :
    (State.setInput ws st).sck = st.sck := rfl
@[simp] theorem State.setInput_trace (ws : List EventWord) (st : State) :
    (State.setInput ws st).trace = st.trace := rfl
@[simp] theorem State.setInput_statusOut (ws : List EventWord) (st : State) :
    (State.setInput ws st).statusOut = st.statusOut := rfl
@[simp] theorem State.setInput_input (ws : List EventWord) (st : State) :
    (State.setInput ws st).input = ws := rfl

/-! ### `State.drive` -/

@[simp] theorem State.drive_cur (ws : List LineWrite) (st : State) :
    (State.drive ws st).cur = st.cur := rfl
@[simp] theorem State.drive_tgt (ws : List LineWrite) (st : State) :
    (State.drive ws st).tgt = st.tgt := rfl
@[simp] theorem State.drive_tLast (ws : List LineWrite) (st : State) :
    (State.drive ws st).tLast = st.tLast := rfl
@[simp] theorem State.drive_frame (ws : List LineWrite) (st : State) :
    (State.drive ws st).frame = st.frame := rfl
@[simp] theorem State.drive_role (ws : List LineWrite) (st : State) :
    (State.drive ws st).role = st.role := rfl
@[simp] theorem State.drive_btDue (ws : List LineWrite) (st : State) :
    (State.drive ws st).btDue = st.btDue := rfl
@[simp] theorem State.drive_btStamp (ws : List LineWrite) (st : State) :
    (State.drive ws st).btStamp = st.btStamp := rfl
@[simp] theorem State.drive_fs (ws : List LineWrite) (st : State) :
    (State.drive ws st).fs = st.fs := rfl
@[simp] theorem State.drive_plen (ws : List LineWrite) (st : State) :
    (State.drive ws st).plen = st.plen := rfl
@[simp] theorem State.drive_pay (ws : List LineWrite) (st : State) :
    (State.drive ws st).pay = st.pay := rfl
@[simp] theorem State.drive_sd (ws : List LineWrite) (st : State) :
    (State.drive ws st).sd = lastLevel .sd st.sd ws := rfl
@[simp] theorem State.drive_sck (ws : List LineWrite) (st : State) :
    (State.drive ws st).sck = lastLevel .sck st.sck ws := rfl
@[simp] theorem State.drive_trace (ws : List LineWrite) (st : State) :
    (State.drive ws st).trace = st.trace ++ ws := rfl
@[simp] theorem State.drive_statusOut (ws : List LineWrite) (st : State) :
    (State.drive ws st).statusOut = st.statusOut := rfl
@[simp] theorem State.drive_input (ws : List LineWrite) (st : State) :
    (State.drive ws st).input = st.input := rfl

/-! ### `State.promote` -/

@[simp] theorem State.promote_cur (st : State) :
    (State.promote st).cur = st.cur := rfl
@[simp] theorem State.promote_tgt (st : State) :
    (State.promote st).tgt = st.tgt := rfl
@[simp] theorem State.promote_tLast (st : State) :
    (State.promote st).tLast = st.tLast := rfl
@[simp] theorem State.promote_frame (st : State) :
    (State.promote st).frame = st.frame := rfl
@[simp] theorem State.promote_role (st : State) :
    (State.promote st).role = .coordinator := rfl
@[simp] theorem State.promote_btDue (st : State) :
    (State.promote st).btDue = st.btDue := rfl
@[simp] theorem State.promote_btStamp (st : State) :
    (State.promote st).btStamp = st.btStamp := rfl
@[simp] theorem State.promote_fs (st : State) :
    (State.promote st).fs = st.fs := rfl
@[simp] theorem State.promote_plen (st : State) :
    (State.promote st).plen = st.plen := rfl
@[simp] theorem State.promote_pay (st : State) :
    (State.promote st).pay = st.pay := rfl
@[simp] theorem State.promote_sd (st : State) :
    (State.promote st).sd = st.sd := rfl
@[simp] theorem State.promote_sck (st : State) :
    (State.promote st).sck = st.sck := rfl
@[simp] theorem State.promote_trace (st : State) :
    (State.promote st).trace = st.trace := rfl
@[simp] theorem State.promote_statusOut (st : State) :
    (State.promote st).statusOut = st.statusOut := rfl
@[simp] theorem State.promote_input (st : State) :
    (State.promote st).input = st.input := rfl

/-! ### `State.markDue` -/

@[simp] theorem State.markDue_cur (st : State) :
    (State.markDue st).cur = st.cur := rfl
@[simp] theorem State.markDue_tgt (st : State) :
    (State.markDue st).tgt = st.tgt := rfl
@[simp] theorem State.markDue_tLast (st : State) :
    (State.markDue st).tLast = st.tLast := rfl
@[simp] theorem State.markDue_frame (st : State) :
    (State.markDue st).frame = st.frame := rfl
@[simp] theorem State.markDue_role (st : State) :
    (State.markDue st).role = st.role := rfl
@[simp] theorem State.markDue_btDue (st : State) :
    (State.markDue st).btDue = true := rfl
@[simp] theorem State.markDue_btStamp (st : State) :
    (State.markDue st).btStamp = st.btStamp := rfl
@[simp] theorem State.markDue_fs (st : State) :
    (State.markDue st).fs = st.fs := rfl
@[simp] theorem State.markDue_plen (st : State) :
    (State.markDue st).plen = st.plen := rfl
@[simp] theorem State.markDue_pay (st : State) :
    (State.markDue st).pay = st.pay := rfl
@[simp] theorem State.markDue_sd (st : State) :
    (State.markDue st).sd = st.sd := rfl
@[simp] theorem State.markDue_sck (st : State) :
    (State.markDue st).sck = st.sck := rfl
@[simp] theorem State.markDue_trace (st : State) :
    (State.markDue st).trace = st.trace := rfl
@[simp] theorem State.markDue_statusOut (st : State) :
    (State.markDue st).statusOut = st.statusOut := rfl
@[simp] theorem State.markDue_input (st : State) :
    (State.markDue st).input = st.input := rfl

/-! ### `State.markSent` -/

@[simp] theorem State.markSent_cur (now : Clock) (st : State) :
    (State.markSent now st).cur = st.cur := rfl
@[simp] theorem State.markSent_tgt (now : Clock) (st : State) :
    (State.markSent now st).tgt = st.tgt := rfl
@[simp] theorem State.markSent_tLast (now : Clock) (st : State) :
    (State.markSent now st).tLast = st.tLast := rfl
@[simp] theorem State.markSent_frame (now : Clock) (st : State) :
    (State.markSent now st).frame = st.frame := rfl
@[simp] theorem State.markSent_role (now : Clock) (st : State) :
    (State.markSent now st).role = st.role := rfl
@[simp] theorem State.markSent_btDue (now : Clock) (st : State) :
    (State.markSent now st).btDue = false := rfl
@[simp] theorem State.markSent_btStamp (now : Clock) (st : State) :
    (State.markSent now st).btStamp = now := rfl
@[simp] theorem State.markSent_fs (now : Clock) (st : State) :
    (State.markSent now st).fs = st.fs := rfl
@[simp] theorem State.markSent_plen (now : Clock) (st : State) :
    (State.markSent now st).plen = st.plen := rfl
@[simp] theorem State.markSent_pay (now : Clock) (st : State) :
    (State.markSent now st).pay = st.pay := rfl
@[simp] theorem State.markSent_sd (now : Clock) (st : State) :
    (State.markSent now st).sd = st.sd := rfl
@[simp] theorem State.markSent_sck (now : Clock) (st : State) :
    (State.markSent now st).sck = st.sck := rfl
@[simp] theorem State.markSent_trace (now : Clock) (st : State) :
    (State.markSent now st).trace = st.trace := rfl
@[simp] theorem State.markSent_statusOut (now : Clock) (st : State) :
    (State.markSent now st).statusOut = st.statusOut := rfl
@[simp] theorem State.markSent_input (now : Clock) (st : State) :
    (State.markSent now st).input = st.input := rfl

/-! ### `State.emit` -/

@[simp] theorem State.emit_cur (st : State) :
    (State.emit st).cur = st.cur := rfl
@[simp] theorem State.emit_tgt (st : State) :
    (State.emit st).tgt = st.tgt := rfl
@[simp] theorem State.emit_tLast (st : State) :
    (State.emit st).tLast = st.tLast := rfl
@[simp] theorem State.emit_frame (st : State) :
    (State.emit st).frame = st.frame := rfl
@[simp] theorem State.emit_role (st : State) :
    (State.emit st).role = st.role := rfl
@[simp] theorem State.emit_btDue (st : State) :
    (State.emit st).btDue = st.btDue := rfl
@[simp] theorem State.emit_btStamp (st : State) :
    (State.emit st).btStamp = st.btStamp := rfl
@[simp] theorem State.emit_fs (st : State) :
    (State.emit st).fs = st.fs := rfl
@[simp] theorem State.emit_plen (st : State) :
    (State.emit st).plen = st.plen := rfl
@[simp] theorem State.emit_pay (st : State) :
    (State.emit st).pay = st.pay := rfl
@[simp] theorem State.emit_sd (st : State) :
    (State.emit st).sd = lastLevel .sd st.sd (emitWrites st.frame) := rfl
@[simp] theorem State.emit_sck (st : State) :
    (State.emit st).sck = lastLevel .sck st.sck (emitWrites st.frame) := rfl
@[simp] theorem State.emit_trace (st : State) :
    (State.emit st).trace = st.trace ++ emitWrites st.frame := rfl
@[simp] theorem State.emit_statusOut (st : State) :
    (State.emit st).statusOut = st.statusOut := rfl
@[simp] theorem State.emit_input (st : State) :
    (State.emit st).input = st.input := rfl

/-! ### `State.setTarget` -/

@[simp] theorem State.setTarget_cur (c : Config) (x : Hsv) (st : State) :
    (State.setTarget c x st).cur = st.cur := rfl
@[simp] theorem State.setTarget_tgt (c : Config) (x : Hsv) (st : State) :
    (State.setTarget c x st).tgt = ⟨clampHue c x.h, x.s, x.v⟩ := rfl
@[simp] theorem State.setTarget_tLast (c : Config) (x : Hsv) (st : State) :
    (State.setTarget c x st).tLast = st.tLast := rfl
@[simp] theorem State.setTarget_frame (c : Config) (x : Hsv) (st : State) :
    (State.setTarget c x st).frame = st.frame := rfl
@[simp] theorem State.setTarget_role (c : Config) (x : Hsv) (st : State) :
    (State.setTarget c x st).role = st.role := rfl
@[simp] theorem State.setTarget_btDue (c : Config) (x : Hsv) (st : State) :
    (State.setTarget c x st).btDue = true := rfl
@[simp] theorem State.setTarget_btStamp (c : Config) (x : Hsv) (st : State) :
    (State.setTarget c x st).btStamp = st.btStamp := rfl
@[simp] theorem State.setTarget_fs (c : Config) (x : Hsv) (st : State) :
    (State.setTarget c x st).fs = st.fs := rfl
@[simp] theorem State.setTarget_plen (c : Config) (x : Hsv) (st : State) :
    (State.setTarget c x st).plen = st.plen := rfl
@[simp] theorem State.setTarget_pay (c : Config) (x : Hsv) (st : State) :
    (State.setTarget c x st).pay = st.pay := rfl
@[simp] theorem State.setTarget_sd (c : Config) (x : Hsv) (st : State) :
    (State.setTarget c x st).sd = st.sd := rfl
@[simp] theorem State.setTarget_sck (c : Config) (x : Hsv) (st : State) :
    (State.setTarget c x st).sck = st.sck := rfl
@[simp] theorem State.setTarget_trace (c : Config) (x : Hsv) (st : State) :
    (State.setTarget c x st).trace = st.trace := rfl
@[simp] theorem State.setTarget_statusOut (c : Config) (x : Hsv) (st : State) :
    (State.setTarget c x st).statusOut = st.statusOut := rfl
@[simp] theorem State.setTarget_input (c : Config) (x : Hsv) (st : State) :
    (State.setTarget c x st).input = st.input := rfl

/-! ### `State.collect` -/

@[simp] theorem State.collect_cur (b : Byte) (st : State) :
    (State.collect b st).cur = st.cur := rfl
@[simp] theorem State.collect_tgt (b : Byte) (st : State) :
    (State.collect b st).tgt = st.tgt := rfl
@[simp] theorem State.collect_tLast (b : Byte) (st : State) :
    (State.collect b st).tLast = st.tLast := rfl
@[simp] theorem State.collect_frame (b : Byte) (st : State) :
    (State.collect b st).frame = st.frame := rfl
@[simp] theorem State.collect_role (b : Byte) (st : State) :
    (State.collect b st).role = st.role := rfl
@[simp] theorem State.collect_btDue (b : Byte) (st : State) :
    (State.collect b st).btDue = st.btDue := rfl
@[simp] theorem State.collect_btStamp (b : Byte) (st : State) :
    (State.collect b st).btStamp = st.btStamp := rfl
@[simp] theorem State.collect_fs (b : Byte) (st : State) :
    (State.collect b st).fs = st.fs := rfl
@[simp] theorem State.collect_plen (b : Byte) (st : State) :
    (State.collect b st).plen = st.plen + 1#3 := rfl
@[simp] theorem State.collect_pay (b : Byte) (st : State) :
    (State.collect b st).pay = Bytes7.set st.pay st.plen.toNat b := rfl
@[simp] theorem State.collect_sd (b : Byte) (st : State) :
    (State.collect b st).sd = st.sd := rfl
@[simp] theorem State.collect_sck (b : Byte) (st : State) :
    (State.collect b st).sck = st.sck := rfl
@[simp] theorem State.collect_trace (b : Byte) (st : State) :
    (State.collect b st).trace = st.trace := rfl
@[simp] theorem State.collect_statusOut (b : Byte) (st : State) :
    (State.collect b st).statusOut = st.statusOut := rfl
@[simp] theorem State.collect_input (b : Byte) (st : State) :
    (State.collect b st).input = st.input := rfl

/-! ### `State.animate` -/

@[simp] theorem State.animate_cur (c : Config) (st : State) :
    (State.animate c st).cur = stepHsv st.cur st.tgt := rfl
@[simp] theorem State.animate_tgt (c : Config) (st : State) :
    (State.animate c st).tgt = st.tgt := rfl
@[simp] theorem State.animate_tLast (c : Config) (st : State) :
    (State.animate c st).tLast = st.tLast := rfl
@[simp] theorem State.animate_frame (c : Config) (st : State) :
    (State.animate c st).frame = List.replicate c.stripLen (convert c (stepHsv st.cur st.tgt)) := rfl
@[simp] theorem State.animate_role (c : Config) (st : State) :
    (State.animate c st).role = st.role := rfl
@[simp] theorem State.animate_btDue (c : Config) (st : State) :
    (State.animate c st).btDue = st.btDue := rfl
@[simp] theorem State.animate_btStamp (c : Config) (st : State) :
    (State.animate c st).btStamp = st.btStamp := rfl
@[simp] theorem State.animate_fs (c : Config) (st : State) :
    (State.animate c st).fs = st.fs := rfl
@[simp] theorem State.animate_plen (c : Config) (st : State) :
    (State.animate c st).plen = st.plen := rfl
@[simp] theorem State.animate_pay (c : Config) (st : State) :
    (State.animate c st).pay = st.pay := rfl
@[simp] theorem State.animate_sd (c : Config) (st : State) :
    (State.animate c st).sd = lastLevel .sd st.sd (emitWrites (List.replicate c.stripLen (convert c (stepHsv st.cur st.tgt)))) := rfl
@[simp] theorem State.animate_sck (c : Config) (st : State) :
    (State.animate c st).sck = lastLevel .sck st.sck (emitWrites (List.replicate c.stripLen (convert c (stepHsv st.cur st.tgt)))) := rfl
@[simp] theorem State.animate_trace (c : Config) (st : State) :
    (State.animate c st).trace = st.trace ++ emitWrites (List.replicate c.stripLen (convert c (stepHsv st.cur st.tgt))) := rfl
@[simp] theorem State.animate_statusOut (c : Config) (st : State) :
    (State.animate c st).statusOut = st.statusOut := rfl
@[simp] theorem State.animate_input (c : Config) (st : State) :
    (State.animate c st).input = st.input := rfl

end Sys2Proof.Machine
end

