-- ==== Sys2Proof/Laws/Ops.lean ====
section
/-! SUPPORT. The spec lemmas of the shared operations: sequencing, the strip lines, operands, levels and colours. -/

namespace Sys2Proof.Machine

open Sys2Proof

/-! ### Sequencing -/

@[simp] theorem andThen_next {α β : Type} (a : α) (f : α → Host.Outcome β Fault Refusal) :
    andThen (.next a) f = f a := rfl

@[simp] theorem andThen_fault {α β : Type} (r : Fault) (f : α → Host.Outcome β Fault Refusal) :
    andThen (.fault r) f = .fault r := rfl

@[simp] theorem andThen_refused {α β : Type} (r : Refusal) (f : α → Host.Outcome β Fault Refusal) :
    andThen (.refused r) f = .refused r := rfl

/-- A sequence that ends in a next state went through a next state. -/
theorem andThen_eq_next {α β : Type} {o : Host.Outcome α Fault Refusal} {f : α → Host.Outcome β Fault Refusal} {b : β} :
    andThen o f = .next b ↔ ∃ a, o = .next a ∧ f a = .next b := by
  cases o <;> simp [andThen]

@[simp] theorem nextOf_next {α : Type} (a : α) : nextOf (.next a : Host.Outcome α Fault Refusal) = some a := rfl

/-! ### The parameters of this hardware (00_scope.md R3) -/

@[simp] theorem lce_stripLen : Config.lce.stripLen = 5 := (rfl)

@[simp] theorem lce_rateMs : Config.lce.rateMs = 4 := (rfl)

@[simp] theorem lce_hueMax : Config.lce.hueMax = 239 := (rfl)

@[simp] theorem lce_svMax : Config.lce.svMax = 255 := (rfl)

@[simp] theorem lce_sextant : Config.lce.sextant = 40 := (rfl)

@[simp] theorem lce_convDiv : Config.lce.convDiv = 256 := (rfl)

@[simp] theorem lce_payloadLen : Config.lce.payloadLen = 7 := (rfl)

@[simp] theorem lce_sigB0 : Config.lce.sigB0 = 0x57#8 := (rfl)

@[simp] theorem lce_sigB1 : Config.lce.sigB1 = 0x78#8 := (rfl)

@[simp] theorem lce_sigB2 : Config.lce.sigB2 = 0x7C#8 := (rfl)

@[simp] theorem lce_cmdSet : Config.lce.cmdSet = 0x53#8 := (rfl)

@[simp] theorem lce_bcastMs : Config.lce.bcastMs = 5000 := (rfl)

@[simp] theorem lce_radioLen : Config.lce.radioLen = 0x06#8 := (rfl)

@[simp] theorem lce_radioSig0 : Config.lce.radioSig0 = 0x57#8 := (rfl)

@[simp] theorem lce_radioSig1 : Config.lce.radioSig1 = 0x78#8 := (rfl)

@[simp] theorem lce_radioSig2 : Config.lce.radioSig2 = 0x53#8 := (rfl)

@[simp] theorem lce_clockW : Config.lce.clockW = 32 := (rfl)

/-! ### Time (00_scope.md R3, 41_animation_engine.md R74) -/

/-- This hardware's clock registers hold every `now`. -/
theorem fits_lce (now : Clock) : now.toNat < 2 ^ Config.lce.clockW := now.isLt

/-- A checked store completes exactly when the value fits, and then with the state it was given (R6). -/
theorem storeClock_eq_next {c : Config} {now : Clock} {t u : State} :
    storeClock c now t = .next u ↔ now.toNat < 2 ^ c.clockW ∧ u = t := by
  unfold storeClock
  split <;> simp_all [eq_comm]

theorem storeClock_fits {c : Config} {now : Clock} (h : now.toNat < 2 ^ c.clockW) (t : State) :
    storeClock c now t = .next t := storeClock_eq_next.mpr ⟨h, rfl⟩

@[simp] theorem storeClock_lce (now : Clock) (t : State) : storeClock Config.lce now t = .next t :=
  storeClock_fits (fits_lce now) t

/-- A checked store faults exactly when the value does not fit (R6). -/
theorem storeClock_eq_fault {c : Config} {now : Clock} {t : State} {f : Fault} :
    storeClock c now t = .fault f ↔ 2 ^ c.clockW ≤ now.toNat ∧ f = .storeOutOfRange := by
  cases f
  unfold storeClock
  split <;> simp_all

/-- With this hardware's clock the time since a stamp is the 32-bit difference. -/
theorem elapsed_lce (now stamp : Clock) : elapsed Config.lce now stamp = (now - stamp).toNat := by
  have h1 : now.toNat < 2 ^ 32 := now.isLt
  have h2 : stamp.toNat < 2 ^ 32 := stamp.isLt
  rw [elapsed, lce_clockW, BitVec.toNat_sub]
  simp only [clockW]
  omega

/-! ### Strip lines -/

@[simp] theorem lastLevel_nil (l : Line) (d : Bool) : lastLevel l d [] = d := rfl

@[simp] theorem lastLevel_cons (l : Line) (d : Bool) (w : LineWrite) (ws : List LineWrite) :
    lastLevel l d (w :: ws) = lastLevel l (if w.line = l then w.level else d) ws := rfl

theorem lastLevel_append (l : Line) (d : Bool) (a b : List LineWrite) :
    lastLevel l d (a ++ b) = lastLevel l (lastLevel l d a) b := by
  induction a generalizing d with
  | nil => rfl
  | cons w ws ih => simp [ih]

theorem drive_append (a b : List LineWrite) (st : State) : st.drive (a ++ b) = (st.drive a).drive b := by
  simp [State.drive, lastLevel_append]

/-- A batch of writes is the primitive `Emit` done once for each (00_scope.md R10). -/
theorem drive_cons (w : LineWrite) (ws : List LineWrite) (st : State) :
    st.drive (w :: ws) = (st.emitOne w.line w.level).drive ws :=
  drive_append [w] ws st

@[simp] theorem drive_nil (st : State) : st.drive [] = st := by simp [State.drive]

/-- Every EMIT writes both lines, so the level before it does not matter for SCK. -/
theorem lastLevel_sck_emitWrites (d : Bool) (f : List Rgb) : lastLevel .sck d (emitWrites f) = false := by
  simp [emitWrites, lastLevel_append]

/-- The levels after one position: clock high, data at bit 0. -/
theorem lastLevel_positionWrites (l : Line) (d : Bool) (x : Rgb) :
    lastLevel l d (positionWrites x) = match l with
      | .sck => true
      | .sd => x.getLsbD 0 := by
  cases l <;> simp [positionWrites, wireBits, msbFirst, bitWrites]

/-- The data line after the positions of a frame: bit 0 of the last one. -/
theorem lastLevel_sd_positions (f : List Rgb) (d : Bool) :
    lastLevel .sd d (f.flatMap positionWrites) = match f.getLast? with
      | none => d
      | some x => x.getLsbD 0 := by
  induction f using List.reverseRecOn with
  | nil => rfl
  | append_singleton l a ih => simp [lastLevel_append, lastLevel_positionWrites]

theorem lastLevel_sd_emitWrites (f : List Rgb) (d : Bool) :
    lastLevel .sd d (emitWrites f) = match f.getLast? with
      | none => d
      | some x => x.getLsbD 0 := by
  simp only [emitWrites, lastLevel_append, lastLevel_sd_positions]
  rfl

theorem emitWrites_ne_nil (f : List Rgb) : emitWrites f ≠ [] := by simp [emitWrites]

@[simp] theorem length_msbFirst {w : Nat} (x : BitVec w) (n : Nat) : (msbFirst x n).length = n := by
  induction n with
  | zero => rfl
  | succ n ih => simp [msbFirst, ih]

@[simp] theorem length_positionWrites (x : Rgb) : (positionWrites x).length = 72 := by
  have h : ∀ l : List Bool, (l.flatMap bitWrites).length = 3 * l.length := by
    intro l
    induction l with
    | nil => rfl
    | cons a l ih => simp [bitWrites, ih]; omega
  simp [positionWrites, wireBits, h]

/-! ### Operands -/

theorem hexPair_toNat (hi lo : Byte) : (hexPair hi lo).toNat = 16 * (hexd hi).toNat + (hexd lo).toNat := by
  have h := (hexd lo).isLt
  show (hexd hi ++ hexd lo : BitVec (4 + 4)).toNat = _
  rw [BitVec.toNat_append, ← Nat.shiftLeft_add_eq_or_of_lt h, Nat.shiftLeft_eq]
  omega

/-! ### Channels -/

/-- `step` neither wraps nor passes its target. -/
theorem stepToward_toNat (x t : Byte) :
    (stepToward x t).toNat = if x.toNat < t.toNat then x.toNat + 1 else if t.toNat < x.toNat then x.toNat - 1 else x.toNat := by
  have hx := x.isLt
  have ht := t.isLt
  unfold stepToward
  split
  · rw [BitVec.toNat_add]; simp; omega
  · split
    · rw [BitVec.toNat_sub]; simp; omega
    · rfl

@[simp] theorem stepToward_self (x : Byte) : stepToward x x = x := by simp [stepToward]

/-- A channel that does not move has reached its target. -/
theorem stepToward_eq_self_iff (x t : Byte) : stepToward x t = x ↔ x = t := by
  constructor
  · intro h
    have := congrArg BitVec.toNat h
    rw [stepToward_toNat] at this
    apply BitVec.eq_of_toNat_eq
    split at this <;> [omega; (split at this <;> omega)]
  · rintro rfl; simp

theorem changed_iff (st : State) : st.changed = true ↔ st.cur ≠ st.tgt := by
  rcases hc : st.cur with ⟨a, b, d⟩
  rcases ht : st.tgt with ⟨a', b', d'⟩
  simp [State.changed, hc, ht]
  tauto

theorem clampHue_toNat (c : Config) (h : Byte) : (clampHue c h).toNat = min h.toNat c.hueMax := by
  have := h.isLt
  simp only [clampHue, BitVec.toNat_ofNat]
  apply Nat.mod_eq_of_lt
  omega

/-! ### Colours -/

@[simp] theorem Level.pick_v (v n m : Int) : Level.pick v n m .v = v := rfl

@[simp] theorem Level.pick_n (v n m : Int) : Level.pick v n m .n = n := rfl

@[simp] theorem Level.pick_m (v n m : Int) : Level.pick v n m .m = m := rfl

theorem hsvRow_lce_0 : hsvRow Config.lce 0 = ⟨.v, .n, .m⟩ := rfl

theorem hsvRow_lce_1 : hsvRow Config.lce 1 = ⟨.v, .m, .n⟩ := rfl

theorem hsvRow_lce_2 : hsvRow Config.lce 2 = ⟨.n, .m, .v⟩ := rfl

theorem hsvRow_lce_3 : hsvRow Config.lce 3 = ⟨.m, .n, .v⟩ := rfl

theorem hsvRow_lce_4 : hsvRow Config.lce 4 = ⟨.m, .v, .n⟩ := rfl

theorem hsvRow_lce_5 : hsvRow Config.lce 5 = ⟨.n, .v, .m⟩ := rfl

theorem levelM_lce (s v : Int) : levelM Config.lce s v = (v * (255 - s)) / 256 := rfl

theorem levelN_lce (s v f : Int) : levelN Config.lce s v f = (v * (255 - (s * f) / 40)) / 256 := rfl

theorem mirrored_lce (i f : Int) : mirrored Config.lce i f = if i % 2 = 1 then 40 - f else f := rfl

/-- In an admitted configuration every level that CONV computes for a value of the block fits a channel, so no store in FRAME
can fail to fit (00_scope.md R6, 40_color_conversion.md R67). -/
theorem level_fits {c : Config} (hc : c.admitted = true) {v q : Int} (hv : 0 ≤ v) (hv2 : v ≤ min c.svMax 255) (hq : 0 ≤ q)
    (hq2 : q ≤ c.svMax) : 0 ≤ v * (c.svMax - q) / c.convDiv ∧ v * (c.svMax - q) / c.convDiv < 256 := by
  simp only [Config.admitted, Bool.and_eq_true, decide_eq_true_eq] at hc
  have hfit : min c.svMax 255 * c.svMax < c.convDiv * 256 := by
    rw [Nat.mul_comm c.convDiv]
    exact (Nat.div_lt_iff_lt_mul (by omega)).mp (by omega)
  have hd : (0 : Int) < c.convDiv := by omega
  have hle : v * (c.svMax - q) ≤ (min c.svMax 255 : Nat) * c.svMax :=
    Int.mul_le_mul (by push_cast; omega) (by omega) (by omega) (by omega)
  refine ⟨Int.ediv_nonneg (Int.mul_nonneg hv (by omega)) hd.le, (Int.ediv_lt_iff_lt_mul hd).mpr (hle.trans_lt ?_)⟩
  rw [Int.mul_comm 256]
  exact_mod_cast hfit

theorem levelM_fits {c : Config} (hc : c.admitted = true) {s v : Int} (hs : 0 ≤ s) (hs2 : s ≤ c.svMax) (hv : 0 ≤ v)
    (hv2 : v ≤ min c.svMax 255) : 0 ≤ levelM c s v ∧ levelM c s v < 256 := level_fits hc hv hv2 hs hs2

theorem levelN_fits {c : Config} (hc : c.admitted = true) {s v f : Int} (hs : 0 ≤ s) (hs2 : s ≤ c.svMax) (hv : 0 ≤ v)
    (hv2 : v ≤ min c.svMax 255) (hf : 0 ≤ f) (hf2 : f ≤ c.sextant) : 0 ≤ levelN c s v f ∧ levelN c s v f < 256 := by
  have hd : (0 : Int) < c.sextant := by
    simp only [Config.admitted, Bool.and_eq_true, decide_eq_true_eq] at hc
    omega
  have hle : s * f / c.sextant ≤ s := by
    calc s * f / c.sextant ≤ s * c.sextant / c.sextant := Int.ediv_le_ediv hd (Int.mul_le_mul_of_nonneg_left hf2 hs)
      _ = s := Int.mul_ediv_cancel s hd.ne'
  exact level_fits hc hv hv2 (Int.ediv_nonneg (Int.mul_nonneg hs hf) hd.le) (hle.trans hs2)

/-- A channel value of 0..255 survives the packing. -/
theorem ofInt8_toNat {x : Int} (h : 0 ≤ x) (h2 : x < 256) : ((BitVec.ofInt 8 x).toNat : Int) = x := by
  simp [BitVec.toNat_ofInt]; omega

@[simp] theorem redOf_pack (r g b : Int) : redOf (pack r g b) = BitVec.ofInt 8 r := by
  apply BitVec.eq_of_getLsbD_eq
  intro i hi
  simp only [redOf, pack, BitVec.getLsbD_extractLsb', BitVec.getLsbD_append]
  simp [hi]

@[simp] theorem greenOf_pack (r g b : Int) : greenOf (pack r g b) = BitVec.ofInt 8 g := by
  apply BitVec.eq_of_getLsbD_eq
  intro i hi
  simp only [greenOf, pack, BitVec.getLsbD_extractLsb', BitVec.getLsbD_append]
  simp [hi]

@[simp] theorem blueOf_pack (r g b : Int) : blueOf (pack r g b) = BitVec.ofInt 8 b := by
  apply BitVec.eq_of_getLsbD_eq
  intro i hi
  have h1 : ¬ 16 + i < 8 := by omega
  have h2 : ¬ 16 + i - 8 < 8 := by omega
  have h3 : 16 + i - 8 - 8 = i := by omega
  simp only [blueOf, pack, BitVec.getLsbD_extractLsb', BitVec.getLsbD_append]
  simp [hi, h1, h2, h3]

theorem chanDist_self (a : Byte) : chanDist a a = 0 := by simp [chanDist]

theorem chanDist_le {a b : Byte} {k : Nat} (h : (a.toNat : Int) - b.toNat ≤ k) (h2 : (b.toNat : Int) - a.toNat ≤ k) :
    chanDist a b ≤ k := by
  unfold chanDist; omega

/-! ### Bytes -/

theorem Bytes7.get_set (x : Bytes7) (k j : Nat) (b : Byte) (hk : k < 7) (hj : j < 7) :
    (Bytes7.set x k b).get j = if j = k then b else x.get j := by
  interval_cases k <;> interval_cases j <;> rfl

theorem Bytes7.ext_get {x y : Bytes7} (h : ∀ k, k < 7 → x.get k = y.get k) : x = y := by
  have h0 := h 0 (by omega)
  have h1 := h 1 (by omega)
  have h2 := h 2 (by omega)
  have h3 := h 3 (by omega)
  have h4 := h 4 (by omega)
  have h5 := h 5 (by omega)
  have h6 := h 6 (by omega)
  cases x; cases y
  simp_all [Bytes7.get]

/-! ### Framer codes (30_encoding.md R62) -/

@[simp] theorem FramerState.ofCode_code (f : FramerState) : FramerState.ofCode f.code = f := by cases f <;> rfl

theorem FramerState.code_ofCode (x : BitVec 2) : (FramerState.ofCode x).code = x := by
  revert x; decide

end Sys2Proof.Machine
end

