-- ==== Sys2Proof/Laws/Events.lean ====
section
/-! SUPPORT. What each event can do, said once: one lemma for each way an event can go, and `exec_effect`, which gathers them
for the proofs over every operation. -/

namespace Sys2Proof.Machine

open Sys2Proof

/-! ### The meanings, by operation -/

theorem execWith_uartByte (c : Config) (b : Byte) (st : State) : execWith c (.uartByte b) st = uartByte c b st := rfl

theorem execWith_usbCmd (c : Config) (buf : Bytes7) (st : State) : execWith c (.usbCmd buf) st = .next (st.parse c buf) := rfl

theorem execWith_tick (c : Config) (now : Clock) (st : State) : execWith c (.tick now) st = onTick c now st := rfl

theorem execWith_radioSet (c : Config) (h s v : Byte) (st : State) :
    execWith c (.radioSet h s v) st = .next (st.setTarget c ⟨h, s, v⟩) := rfl

theorem execWith_bcastMark (c : Config) (now : Clock) (st : State) :
    execWith c (.bcastMark now) st = storeClock c now (st.markSent now) := rfl

theorem execWith_readStatus (c : Config) (st : State) :
    execWith c .readStatus st = .next (st.logStatus (statusOf st)) := rfl

theorem execWith_cmdSet (k : Config) (a b c d e f : Byte) (st : State) :
    execWith k (.cmdSet a b c d e f) st = .next (st.setTarget k (cmdSetOperands a b c d e f)) := rfl

theorem execWith_cmdIgnore (c : Config) (buf : Bytes7) (st : State) : execWith c (.cmdIgnore buf) st = .next st := rfl

/-- The machine of the host's interface is the block of this hardware's configuration. -/
theorem execWith_lce (i : Instr) (st : State) : execWith Config.lce i st = exec i st := by cases i <;> rfl

theorem exec_uartByte (b : Byte) (st : State) : exec (.uartByte b) st = uartByte Config.lce b st := rfl

theorem exec_usbCmd (buf : Bytes7) (st : State) : exec (.usbCmd buf) st = .next (st.parse Config.lce buf) := rfl

theorem exec_tick (now : Clock) (st : State) : exec (.tick now) st = onTick Config.lce now st := rfl

theorem exec_radioSet (h s v : Byte) (st : State) :
    exec (.radioSet h s v) st = .next (st.setTarget Config.lce ⟨h, s, v⟩) := rfl

theorem exec_bcastMark (now : Clock) (st : State) : exec (.bcastMark now) st = .next (st.markSent now) := storeClock_lce _ _

theorem exec_readStatus (st : State) : exec .readStatus st = .next (st.logStatus (statusOf st)) := rfl

theorem exec_cmdSet (a b c d e f : Byte) (st : State) :
    exec (.cmdSet a b c d e f) st = .next (st.setTarget Config.lce (cmdSetOperands a b c d e f)) := rfl

theorem exec_cmdIgnore (buf : Bytes7) (st : State) : exec (.cmdIgnore buf) st = .next st := rfl

/-! ### TICK (41_animation_engine.md R73) -/

theorem onTick_limited {c : Config} {now : Clock} {st : State} (h : elapsed c now st.tLast < c.rateMs) :
    onTick c now st = .next st := if_pos h

theorem onTick_past {c : Config} {now : Clock} {st : State} (h : c.rateMs ≤ elapsed c now st.tLast) :
    onTick c now st = storeClock c now (st.pastLimiter c now) := if_neg (Nat.not_lt.mpr h)

theorem pastLimiter_converged {st : State} (hc : st.cur = st.tgt) (c : Config) (now : Clock) :
    st.pastLimiter c now = st.setTLast now := by
  have hn : (st.setTLast now).changed = false := by
    rw [Bool.eq_false_iff]; simp [changed_iff, hc]
  simp [State.pastLimiter, hn]

theorem pastLimiter_steps {st : State} (hc : st.cur ≠ st.tgt) (c : Config) (now : Clock) :
    st.pastLimiter c now = (st.setTLast now).animate c := by
  have hn : (st.setTLast now).changed = true := by simp [changed_iff, hc]
  simp [State.pastLimiter, hn]

/-- A TICK of this hardware past the limiter completes. -/
theorem exec_tick_past {now : Clock} {st : State} (h : 4 ≤ (now - st.tLast).toNat) :
    exec (.tick now) st = .next (st.pastLimiter Config.lce now) := by
  rw [exec_tick, onTick_past (by rw [elapsed_lce]; exact h), storeClock_lce]

theorem exec_tick_limited {now : Clock} {st : State} (h : (now - st.tLast).toNat < 4) : exec (.tick now) st = .next st := by
  rw [exec_tick, onTick_limited (by rw [elapsed_lce]; exact h)]

theorem exec_tick_converged {now : Clock} {st : State} (h : 4 ≤ (now - st.tLast).toNat) (hc : st.cur = st.tgt) :
    exec (.tick now) st = .next (st.setTLast now) := by
  rw [exec_tick_past h, pastLimiter_converged hc]

theorem exec_tick_steps {now : Clock} {st : State} (h : 4 ≤ (now - st.tLast).toNat) (hc : st.cur ≠ st.tgt) :
    exec (.tick now) st = .next ((st.setTLast now).animate Config.lce) := by
  rw [exec_tick_past h, pastLimiter_steps hc]

/-! ### PARSE (43_command_parser.md R86) -/

theorem parse_set {c : Config} {buf : Bytes7} (h : buf.b0 = c.cmdSet) (st : State) :
    st.parse c buf = st.setTarget c (cmdSetOperands buf.b1 buf.b2 buf.b3 buf.b4 buf.b5 buf.b6) := by
  simp [State.parse, State.cmdSet, h]

theorem parse_ignore {c : Config} {buf : Bytes7} (h : buf.b0 ≠ c.cmdSet) (st : State) : st.parse c buf = st := by
  simp [State.parse, State.cmdIgnore, h]

/-- PARSE is SET_TARGET of some bytes, or nothing. -/
theorem parse_cases (c : Config) (buf : Bytes7) (st : State) :
    (∃ x, st.parse c buf = st.setTarget c x) ∨ st.parse c buf = st := by
  by_cases h : buf.b0 = c.cmdSet
  · exact .inl ⟨_, parse_set h st⟩
  · exact .inr (parse_ignore h st)

/-! ### UART_BYTE (44_uart_framer.md R91 to R97) -/

theorem uartByte_wait {c : Config} {b : Byte} {st : State} (h : st.fs = .wait) :
    uartByte c b st = .next (if b = c.sigB0 then st.setFs .sig1 else st) := by
  simp [uartByte, framerStep, h, framerWait]

theorem uartByte_sig1 {c : Config} {b : Byte} {st : State} (h : st.fs = .sig1) :
    uartByte c b st =
      .next (if b = c.sigB1 then st.setFs .sig2 else if b = c.sigB0 then st.setFs .sig1 else st.setFs .wait) := by
  by_cases hb : b = c.sigB1
  · simp [uartByte, framerStep, h, framerSig1, hb]
  · by_cases h0 : b = c.sigB0 <;> simp_all [uartByte, framerStep, framerSig1, framerWait, State.setFs]

theorem uartByte_sig2 {c : Config} {b : Byte} {st : State} (h : st.fs = .sig2) :
    uartByte c b st =
      .next (if b = c.sigB2 then (st.setFs .buffer).setPlen 0#3
        else if b = c.sigB0 then st.setFs .sig1 else st.setFs .wait) := by
  by_cases hb : b = c.sigB2
  · simp [uartByte, framerStep, h, framerSig2, hb]
  · by_cases h0 : b = c.sigB0 <;> simp_all [uartByte, framerStep, framerSig2, framerWait, State.setFs]

theorem plen_succ {p : BitVec 3} (h : p.toNat < payloadLen) : (p + 1#3).toNat = p.toNat + 1 := by
  rw [BitVec.toNat_add]
  simp [payloadLen] at h ⊢
  omega

theorem uartByte_collects {c : Config} {b : Byte} {st : State} (h : st.fs = .buffer) (hp : st.plen.toNat < payloadLen)
    (hc : st.plen.toNat + 1 ≠ c.payloadLen) : uartByte c b st = .next (st.collect b) := by
  simp [uartByte, framerStep, h, framerBuffer, hp, State.collect_plen, plen_succ hp, hc]

theorem uartByte_completes {c : Config} {b : Byte} {st : State} (h : st.fs = .buffer) (hp : st.plen.toNat < payloadLen)
    (hc : st.plen.toNat + 1 = c.payloadLen) : uartByte c b st = .next ((st.collect b).complete c) := by
  simp [uartByte, framerStep, h, framerBuffer, hp, State.collect_plen, plen_succ hp, hc]

theorem uartByte_stops {c : Config} {b : Byte} {st : State} (h : st.fs = .buffer) (hp : ¬ st.plen.toNat < payloadLen) :
    uartByte c b st = .fault .storeOutOfRange := by
  simp [uartByte, framerStep, h, framerBuffer, hp]

/-- A UART_BYTE faults exactly in BUFFER past the payload buffer (00_scope.md R6). -/
theorem uartByte_eq_fault {c : Config} {b : Byte} {st : State} {f : Fault} :
    uartByte c b st = .fault f ↔ st.fs = .buffer ∧ ¬ st.plen.toNat < payloadLen ∧ f = .storeOutOfRange := by
  cases hf : st.fs with
  | wait => simp [uartByte_wait hf]
  | sig1 => simp [uartByte_sig1 hf]
  | sig2 => simp [uartByte_sig2 hf]
  | buffer =>
    by_cases hp : st.plen.toNat < payloadLen
    · by_cases hc : st.plen.toNat + 1 = c.payloadLen
      · simp [uartByte_completes hf hp hc, hp]
      · simp [uartByte_collects hf hp hc, hp]
    · simp [uartByte_stops hf hp, hp]

/-- The completion of a payload: ROLE and FS, and then SET_TARGET or nothing. -/
theorem complete_cases (c : Config) (st : State) :
    (∃ x, st.complete c = (st.promote.setFs .wait).setTarget c x) ∨ st.complete c = st.promote.setFs .wait :=
  parse_cases c st.pay (st.promote.setFs .wait)

theorem complete_set {c : Config} {st : State} (h : st.pay.b0 = c.cmdSet) :
    st.complete c = (st.promote.setFs .wait).setTarget c
      (cmdSetOperands st.pay.b1 st.pay.b2 st.pay.b3 st.pay.b4 st.pay.b5 st.pay.b6) := parse_set h _

theorem complete_ignore {c : Config} {st : State} (h : st.pay.b0 ≠ c.cmdSet) :
    st.complete c = st.promote.setFs .wait := parse_ignore h _

/-! ### Every operation, once -/

/-- What an operation that answers a next state has done, in a block built with `c`. -/
inductive Effect (c : Config) (st : State) : Instr → State → Prop where
  /-- A command or a byte without effect, or a TICK that the rate limiter stops. -/
  | nothing (i : Instr) (h : i ≠ .readStatus) : Effect c st i st
  /-- A colour was set, by a direct command or by the radio. -/
  | target (i : Instr) (x : Hsv) (h : ∀ b now, i ≠ .uartByte b ∧ i ≠ .tick now) (hs : i ≠ .readStatus)
      (hm : ∀ now, i ≠ .bcastMark now) (hg : ∀ buf, i ≠ .cmdIgnore buf) : Effect c st i (st.setTarget c x)
  | mark (now : Clock) (hn : now.toNat < 2 ^ c.clockW) : Effect c st (.bcastMark now) (st.markSent now)
  | status : Effect c st .readStatus (st.logStatus (statusOf st))
  /-- A TICK past the limiter on a converged block. -/
  | converged (now : Clock) (hn : now.toNat < 2 ^ c.clockW) (h : c.rateMs ≤ elapsed c now st.tLast) (hc : st.cur = st.tgt) :
      Effect c st (.tick now) (st.setTLast now)
  /-- A TICK past the limiter that steps the colour. -/
  | animated (now : Clock) (hn : now.toNat < 2 ^ c.clockW) (h : c.rateMs ≤ elapsed c now st.tLast) (hc : st.cur ≠ st.tgt) :
      Effect c st (.tick now) ((st.setTLast now).animate c)
  /-- A byte that is scanned for the signature. -/
  | scanned (b : Byte) (f : FramerState) (hf : st.fs ≠ .buffer) (hn : f ≠ .buffer) : Effect c st (.uartByte b) (st.setFs f)
  /-- The byte that ends the signature. -/
  | opened (b : Byte) (hf : st.fs = .sig2) : Effect c st (.uartByte b) ((st.setFs .buffer).setPlen 0#3)
  | collected (b : Byte) (hf : st.fs = .buffer) (hp : st.plen.toNat < payloadLen)
      (hc : st.plen.toNat + 1 ≠ c.payloadLen) : Effect c st (.uartByte b) (st.collect b)
  | completed (b : Byte) (hf : st.fs = .buffer) (hp : st.plen.toNat < payloadLen)
      (hc : st.plen.toNat + 1 = c.payloadLen) : Effect c st (.uartByte b) ((st.collect b).complete c)

theorem parse_effect (c : Config) (st : State) (buf : Bytes7) : Effect c st (.usbCmd buf) (st.parse c buf) := by
  rcases parse_cases c buf st with ⟨x, hx⟩ | hx
  · rw [hx]; exact .target _ x (by simp) (by simp) (by simp) (by simp)
  · rw [hx]; exact .nothing _ (by simp)

theorem onTick_effect {c : Config} {st t : State} {now : Clock} (h : onTick c now st = .next t) :
    Effect c st (.tick now) t := by
  by_cases hl : elapsed c now st.tLast < c.rateMs
  · rw [onTick_limited hl] at h
    cases h
    exact .nothing _ (by simp)
  · have hp := Nat.not_lt.mp hl
    rw [onTick_past hp] at h
    obtain ⟨hn, rfl⟩ := storeClock_eq_next.mp h
    by_cases hc : st.cur = st.tgt
    · rw [pastLimiter_converged hc]; exact .converged now hn hp hc
    · rw [pastLimiter_steps hc]; exact .animated now hn hp hc

/-- A TICK faults exactly past the limiter with a `now` that does not fit (00_scope.md R6). -/
theorem onTick_eq_fault {c : Config} {st : State} {now : Clock} {f : Fault} :
    onTick c now st = .fault f ↔
      c.rateMs ≤ elapsed c now st.tLast ∧ 2 ^ c.clockW ≤ now.toNat ∧ f = .storeOutOfRange := by
  by_cases hl : elapsed c now st.tLast < c.rateMs
  · rw [onTick_limited hl]
    simp only [reduceCtorEq, false_iff]
    omega
  · have hp := Nat.not_lt.mp hl
    rw [onTick_past hp, storeClock_eq_fault]
    simp [hp]

theorem uartByte_effect {c : Config} {st t : State} {b : Byte} (h : uartByte c b st = .next t) :
    Effect c st (.uartByte b) t := by
  cases hf : st.fs with
  | wait =>
    rw [uartByte_wait hf] at h
    cases h
    split
    · exact .scanned b _ (by simp [hf]) (by simp)
    · exact .nothing _ (by simp)
  | sig1 =>
    rw [uartByte_sig1 hf] at h
    cases h
    split <;> [skip; split] <;> exact .scanned b _ (by simp [hf]) (by simp)
  | sig2 =>
    rw [uartByte_sig2 hf] at h
    cases h
    split
    · exact .opened b hf
    · split <;> exact .scanned b _ (by simp [hf]) (by simp)
  | buffer =>
    by_cases hp : st.plen.toNat < payloadLen
    · by_cases hc : st.plen.toNat + 1 = c.payloadLen
      · rw [uartByte_completes hf hp hc] at h
        cases h
        exact .completed b hf hp hc
      · rw [uartByte_collects hf hp hc] at h
        cases h
        exact .collected b hf hp hc
    · rw [uartByte_stops hf hp] at h
      cases h

/-- Everything that an operation can do when it answers a next state, in a block of any configuration. -/
theorem execWith_effect {c : Config} {i : Instr} {st t : State} (h : execWith c i st = .next t) : Effect c st i t := by
  cases i with
  | uartByte b => exact uartByte_effect h
  | usbCmd buf => cases h; exact parse_effect c st buf
  | tick now => exact onTick_effect h
  | radioSet a b d => cases h; exact .target _ _ (by simp) (by simp) (by simp) (by simp)
  | bcastMark now => obtain ⟨hn, rfl⟩ := storeClock_eq_next.mp h; exact .mark now hn
  | readStatus => cases h; exact .status
  | cmdSet a b d e f g => cases h; exact .target _ _ (by simp) (by simp) (by simp) (by simp)
  | cmdIgnore buf => cases h; exact .nothing _ (by simp)

/-- Everything that an operation can do when it answers a next state. -/
theorem exec_effect {i : Instr} {st t : State} (h : exec i st = .next t) : Effect Config.lce st i t :=
  execWith_effect ((execWith_lce i st).trans h)

/-- An operation of a block completes wherever UART_BYTE has a byte to write (10_state.md R26 item 5) and its `now` has the
width of its port (20_memory.md R46). -/
theorem execWith_completes {c : Config} (hc : c.payloadLen ≤ payloadLen) {st : State} (hp : PlenOk c st) {i : Instr}
    (hi : timeFits c i = true) : ∃ t, execWith c i st = .next t := by
  cases i with
  | uartByte b =>
    rw [execWith_uartByte]
    cases hf : st.fs with
    | wait => exact ⟨_, uartByte_wait hf⟩
    | sig1 => exact ⟨_, uartByte_sig1 hf⟩
    | sig2 => exact ⟨_, uartByte_sig2 hf⟩
    | buffer =>
      have hlt := lt_of_lt_of_le (hp hf) hc
      by_cases hl : st.plen.toNat + 1 = c.payloadLen
      · exact ⟨_, uartByte_completes hf hlt hl⟩
      · exact ⟨_, uartByte_collects hf hlt hl⟩
  | tick now =>
    by_cases hl : elapsed c now st.tLast < c.rateMs
    · exact ⟨_, onTick_limited hl⟩
    · exact ⟨_, (onTick_past (Nat.not_lt.mp hl)).trans (storeClock_fits (of_decide_eq_true hi) _)⟩
  | bcastMark now => exact ⟨_, storeClock_fits (of_decide_eq_true hi) _⟩
  | _ => exact ⟨_, rfl⟩

/-- Every `now` of this hardware's words has the width of its port. -/
@[simp] theorem timeFits_lce (i : Instr) : timeFits Config.lce i = true := by
  cases i with
  | tick now => exact decide_eq_true (fits_lce now)
  | bcastMark now => exact decide_eq_true (fits_lce now)
  | _ => rfl

/-! ### A step -/

theorem step_nil {s : State} (h : s.input = []) : step s = idle s := by simp [step, fetch, h]

theorem step_cons {s : State} {w : EventWord} {rest : List EventWord} (h : s.input = w :: rest) :
    step s = runDecoded (decodeEvent w) (s.setInput rest) := by simp [step, fetch, h]

theorem stepWith_nil {c : Config} {s : State} (h : s.input = []) : stepWith c s = idle s := by simp [stepWith, fetch, h]

theorem stepWith_cons {c : Config} {s : State} {w : EventWord} {rest : List EventWord} (h : s.input = w :: rest) :
    stepWith c s = runDecodedWith c (decodeEvent w) (s.setInput rest) := by simp [stepWith, fetch, h]

/-- The step of the host's interface is the step of the block of this hardware's configuration. -/
theorem stepWith_lce (s : State) : stepWith Config.lce s = step s := by
  cases h : s.input with
  | nil => rw [stepWith_nil h, step_nil h]
  | cons w rest =>
    rw [stepWith_cons h, step_cons h]
    cases decodeEvent w with
    | instr i => exact execWith_lce i _
    | invalid e => rfl

/-- A step of a block that answers a next state waits, or runs the operation of the next word. -/
theorem stepWith_next_cases {c : Config} {s t : State} (h : stepWith c s = .next t) :
    (s.input = [] ∧ t = s) ∨
      ∃ w rest i, s.input = w :: rest ∧ decodeEvent w = .instr i ∧ execWith c i (s.setInput rest) = .next t := by
  cases hi : s.input with
  | nil => rw [stepWith_nil hi] at h; cases h; exact .inl ⟨rfl, rfl⟩
  | cons w rest =>
    rw [stepWith_cons hi] at h
    cases hd : decodeEvent w with
    | instr i => rw [hd] at h; exact .inr ⟨w, rest, i, rfl, hd, h⟩
    | invalid e => rw [hd] at h; cases h

/-- A step that answers a next state waits, or runs the operation of the next word. -/
theorem step_next_cases {s t : State} (h : step s = .next t) :
    (s.input = [] ∧ t = s) ∨
      ∃ w rest i, s.input = w :: rest ∧ decodeEvent w = .instr i ∧ exec i (s.setInput rest) = .next t := by
  rcases stepWith_next_cases ((stepWith_lce s).trans h) with hn | ⟨w, rest, i, hw, hd, he⟩
  · exact .inl hn
  · exact .inr ⟨w, rest, i, hw, hd, (execWith_lce i _).symm.trans he⟩

/-! ### A run -/

@[simp] theorem runEventsWith_nil (c : Config) (st : State) : runEventsWith c [] st = .next st := rfl

@[simp] theorem runEventsWith_cons (c : Config) (i : Instr) (is : List Instr) (st : State) :
    runEventsWith c (i :: is) st = andThen (execWith c i st) (runEventsWith c is) := rfl

theorem runEventsWith_append (c : Config) (a b : List Instr) (st : State) :
    runEventsWith c (a ++ b) st = andThen (runEventsWith c a st) (runEventsWith c b) := by
  induction a generalizing st with
  | nil => rfl
  | cons i is ih =>
    simp only [List.cons_append, runEventsWith_cons]
    cases execWith c i st <;> simp [ih]

/-- What every operation keeps, a run keeps. -/
theorem runEventsWith_induction {c : Config} {P : State → Prop} (hP : ∀ i st t, P st → execWith c i st = .next t → P t)
    {evs : List Instr} {st t : State} (h0 : P st) (h : runEventsWith c evs st = .next t) : P t := by
  induction evs generalizing st with
  | nil => cases h; exact h0
  | cons i is ih =>
    obtain ⟨u, hu, ht⟩ := andThen_eq_next.mp h
    exact ih (hP i st u h0 hu) ht

@[simp] theorem runEvents_nil (st : State) : runEvents [] st = .next st := rfl

@[simp] theorem runEvents_cons (i : Instr) (is : List Instr) (st : State) :
    runEvents (i :: is) st = andThen (exec i st) (runEvents is) := by
  rw [← execWith_lce]
  rfl

theorem runEvents_append (a b : List Instr) (st : State) :
    runEvents (a ++ b) st = andThen (runEvents a st) (runEvents b) := runEventsWith_append Config.lce a b st

theorem runEvents_induction {P : State → Prop} (hP : ∀ i st t, P st → exec i st = .next t → P t)
    {evs : List Instr} {st t : State} (h0 : P st) (h : runEvents evs st = .next t) : P t :=
  runEventsWith_induction (c := Config.lce) (fun i s u hs he => hP i s u hs ((execWith_lce i s).symm.trans he)) h0 h

/-! ### Nodes (60_exceptions.md R106, R114 to R116) -/

theorem radioCheck_coordinator {c : Config} {now : Clock} {slotFree : Bool} {n : Node} (h : n.lce.role = .coordinator) :
    n.radioCheck c now slotFree = n.coord c now slotFree := by rw [Node.radioCheck, h]

theorem radioCheck_uncoordinated {c : Config} {now : Clock} {slotFree : Bool} {n : Node} (h : n.lce.role = .uncoordinated) :
    n.radioCheck c now slotFree = n.peer c := by rw [Node.radioCheck, h]

/-- An event served to a node changes its block as the event does, or nothing, and never its radio queue. -/
theorem serve_next_cases {c : Config} {i : Instr} {n m : Node} (h : n.serve c i = .next m) :
    m = n ∨ ∃ st, execWith c i n.lce = .next st ∧ m = { n with lce := st } := by
  unfold Node.serve at h
  split at h
  · obtain ⟨st, hs, hm⟩ := andThen_eq_next.mp h
    cases hm
    exact .inr ⟨st, hs, rfl⟩
  · cases h
    exact .inl rfl

/-- A node's action leaves the medium alone, and changes the state of at most that node, never a configuration (R4). -/
theorem onNode_next_cases {k : Nat} {f : Config → Node → Host.Outcome Node Fault Refusal} {y z : System}
    (h : y.onNode k f = .next z) :
    z = y ∨ ∃ m n, y.nodes[k]? = some m ∧ f m.config m.node = .next n ∧ z = y.setNode k m n := by
  unfold System.onNode at h
  split at h
  · cases h
    exact .inl rfl
  · rename_i m hm
    obtain ⟨n, hn, hz⟩ := andThen_eq_next.mp h
    cases hz
    exact .inr ⟨m, n, hm, hn, rfl⟩

end Sys2Proof.Machine
end

