-- ==== Sys2Proof/Laws/Decode.lean ====
section
/-! SUPPORT. The spec lemmas of the decoder and the encoder: concatenation and fields as numbers, the seven bytes of a
buffer, and the must-be-zero check. -/

namespace Sys2Proof.Machine

open Sys2Proof

theorem append_toNat {n m : Nat} (a : BitVec n) (b : BitVec m) : (a ++ b).toNat = a.toNat * 2 ^ m + b.toNat := by
  rw [BitVec.toNat_append, ← Nat.shiftLeft_add_eq_or_of_lt b.isLt, Nat.shiftLeft_eq]

theorem extract_toNat {n : Nat} (x : BitVec n) (s l : Nat) : (x.extractLsb' s l).toNat = x.toNat / 2 ^ s % 2 ^ l := by
  rw [BitVec.extractLsb'_toNat, Nat.shiftRight_eq_div_pow]

theorem eventTag_toNat (w : EventWord) : (eventTag w).toNat = w.toNat / 2 ^ 61 := by
  have := w.isLt
  rw [eventTag, extract_toNat]
  omega

/-- The buffer's 56 bits as a number, byte 0 least significant. -/
theorem toBits_toNat (x : Bytes7) :
    x.toBits.toNat = x.b0.toNat + 2 ^ 8 * x.b1.toNat + 2 ^ 16 * x.b2.toNat + 2 ^ 24 * x.b3.toNat + 2 ^ 32 * x.b4.toNat
      + 2 ^ 40 * x.b5.toNat + 2 ^ 48 * x.b6.toNat := by
  simp only [Bytes7.toBits, append_toNat]
  omega

@[simp] theorem ofBits_toBits (x : Bytes7) : Bytes7.ofBits x.toBits = x := by
  have e := toBits_toNat x
  have h0 := x.b0.isLt
  have h1 := x.b1.isLt
  have h2 := x.b2.isLt
  have h3 := x.b3.isLt
  have h4 := x.b4.isLt
  have h5 := x.b5.isLt
  have h6 := x.b6.isLt
  unfold Bytes7.ofBits
  cases x
  congr 1 <;> (apply BitVec.eq_of_toNat_eq; rw [extract_toNat, e]; simp only at *; omega)

@[simp] theorem toBits_ofBits (w : BitVec 56) : (Bytes7.ofBits w).toBits = w := by
  have := w.isLt
  apply BitVec.eq_of_toNat_eq
  simp only [Bytes7.toBits, append_toNat, Bytes7.ofBits, extract_toNat]
  omega

theorem requireZero_zero {n : Nat} {m : BitVec n} {i : Instr} (h : m.toNat = 0) : requireZero m i = .instr i := by
  rw [requireZero, if_pos]
  exact BitVec.eq_of_toNat_eq (by simpa using h)

theorem requireZero_eq_instr {n : Nat} {m : BitVec n} {i j : Instr} :
    requireZero m i = .instr j ↔ m.toNat = 0 ∧ i = j := by
  constructor
  · intro h
    by_cases hm : m = 0#n
    · rw [requireZero, if_pos hm] at h
      cases h
      exact ⟨by simp [hm], rfl⟩
    · rw [requireZero, if_neg hm] at h
      cases h
  · rintro ⟨h, rfl⟩
    exact requireZero_zero h

theorem requireZero_eq_invalid {n : Nat} {m : BitVec n} {i : Instr} {e : DecodeError}
    (h : requireZero m i = .invalid e) : e = .mustBeZero := by
  by_cases hm : m = 0#n
  · rw [requireZero, if_pos hm] at h
    cases h
  · rw [requireZero, if_neg hm] at h
    cases h
    rfl

theorem decodeCommand_set {buf : Bytes7} (h : buf.b0 = Config.lce.cmdSet) :
    decodeCommand buf = .cmdSet buf.b1 buf.b2 buf.b3 buf.b4 buf.b5 buf.b6 := if_pos h

theorem decodeCommand_ignore {buf : Bytes7} (h : buf.b0 ≠ Config.lce.cmdSet) : decodeCommand buf = .cmdIgnore buf := if_neg h

/-- What `USB_CMD` of a buffer does is what the command of the buffer does, in a block of any configuration. -/
theorem execWith_decodeCommandWith (c : Config) (buf : Bytes7) (st : State) :
    execWith c (decodeCommandWith c buf) st = .next (st.parse c buf) := by
  by_cases h : buf.b0 = c.cmdSet
  · rw [parse_set h, decodeCommandWith, if_pos h]
    rfl
  · rw [parse_ignore h, decodeCommandWith, if_neg h]
    rfl

theorem exec_decodeCommand (buf : Bytes7) (st : State) : exec (decodeCommand buf) st = .next (st.parse Config.lce buf) :=
  (execWith_lce _ _).symm.trans (execWith_decodeCommandWith Config.lce buf st)

end Sys2Proof.Machine
end

