-- ==== Sys2Proof/Laws/PerInstr.lean ====
section
/-! SUPPORT. Statements about every operation as syntax, one lemma for each constructor. -/

namespace Sys2Proof.Laws.EncodesInItsRow

open Sys2Proof Sys2Proof.Machine

/-- An event is encoded as a word of its own opcode-table row (30_encoding.md R52), and is presented on a port; a command is
encoded as a buffer, whose letter is `'S'` exactly for CMD_SET (R56), and no port selects it (R54). -/
def Statement (i : Instr) : Prop :=
  i.wellFormed = true →
    match encode i with
    | .event w => i.isEvent = true ∧ ∃ r ∈ eventTable, r.mnemonic = i.mnemonic ∧ r.hits w = true
    | .command buf => i.isEvent = false ∧ (i.mnemonic = "CMD_SET" ↔ buf.b0 = 0x53#8) ∧
        (i.mnemonic = "CMD_IGNORE" ↔ buf.b0 ≠ 0x53#8)

/-- A word whose bits above its `k` low ones are `hi` is a word of the row whose mask keeps the bits above. -/
theorem hits_append {n k : Nat} (hi : BitVec n) (lo : BitVec k) :
    (hi ++ lo) &&& (BitVec.allOnes n ++ 0#k) = hi ++ 0#k := by
  ext j hj
  simp only [BitVec.getElem_and, BitVec.getElem_append]
  split <;> simp

theorem uartByte (b : Byte) : Statement (.uartByte b) := fun _ =>
  ⟨rfl, ⟨"UART_BYTE", 0xFFFFFFFFFFFFFF00#64, 0x0000000000000000#64⟩, by simp [eventTable], rfl,
    beq_iff_eq.mpr (hits_append (0#3 ++ 0#53 : BitVec 56) b)⟩

theorem usbCmd (buf : Bytes7) : Statement (.usbCmd buf) := fun _ =>
  ⟨rfl, ⟨"USB_CMD", 0xFF00000000000000#64, 0x2000000000000000#64⟩, by simp [eventTable], rfl,
    beq_iff_eq.mpr (hits_append (1#3 ++ 0#5 : BitVec 8) buf.toBits)⟩

theorem tick (now : Clock) : Statement (.tick now) := fun _ =>
  ⟨rfl, ⟨"TICK", 0xFFFFFFFF00000000#64, 0x4000000000000000#64⟩, by simp [eventTable], rfl,
    beq_iff_eq.mpr (hits_append (2#3 ++ 0#29 : BitVec 32) now)⟩

theorem radioSet (h s v : Byte) : Statement (.radioSet h s v) := fun _ =>
  ⟨rfl, ⟨"RADIO_SET", 0xFFFFFFFFFF000000#64, 0x6000000000000000#64⟩, by simp [eventTable], rfl,
    beq_iff_eq.mpr <| by
      have e : (((3#3 ++ 0#37 : BitVec 40) ++ v ++ s : BitVec 56) ++ h : BitVec 64)
          = (3#3 ++ 0#37 : BitVec 40) ++ (v ++ s ++ h) :=
        BitVec.eq_of_toNat_eq (by simp only [append_toNat]; omega)
      exact (congrArg (· &&& _) e).trans (hits_append (3#3 ++ 0#37 : BitVec 40) (v ++ s ++ h))⟩

theorem bcastMark (now : Clock) : Statement (.bcastMark now) := fun _ =>
  ⟨rfl, ⟨"BCAST_MARK", 0xFFFFFFFF00000000#64, 0x8000000000000000#64⟩, by simp [eventTable], rfl,
    beq_iff_eq.mpr (hits_append (4#3 ++ 0#29 : BitVec 32) now)⟩

theorem readStatus : Statement .readStatus := fun _ =>
  ⟨rfl, ⟨"READ_STATUS", 0xFFFFFFFFFFFFFFFF#64, 0xA000000000000000#64⟩, by simp [eventTable], rfl, rfl⟩

theorem cmdSet (hHi hLo sHi sLo vHi vLo : Byte) : Statement (.cmdSet hHi hLo sHi sLo vHi vLo) := fun _ => by
  refine ⟨rfl, ?_, ?_⟩ <;> simp [Instr.mnemonic]

theorem cmdIgnore (buf : Bytes7) : Statement (.cmdIgnore buf) := fun hw => by
  have h : buf.b0 ≠ 0x53#8 := by simpa [Instr.wellFormed] using hw
  refine ⟨rfl, ?_, ?_⟩ <;> simp [Instr.mnemonic, h]

end Sys2Proof.Laws.EncodesInItsRow
end

