-- ==== Sys2Proof/Tests/Slice0.lean ====
section
/-! SUPPORT. Tests of the definitions, their expected results from spec/95_test_vectors.md, spec/opcode_table.json and the
rules cited, and a witness for each statement that has hypotheses. -/

namespace Sys2Proof.Tests

open Sys2Proof Sys2Proof.Machine

/-! ### Helpers -/

/-- The reset state with a current colour, a target, and a stamp of the limiter. -/
def colours (cur tgt : Hsv) (tLast : Clock) : State := { State.reset with cur := cur, tgt := tgt, tLast := tLast }

/-- The reset state inside a payload of `n` bytes whose first byte is `b0`. -/
def inBuffer (n : BitVec 3) (b0 : Byte) : State :=
  { State.reset with fs := .buffer, plen := n, pay := ⟨b0, 0x30#8, 0x41#8, 0x46#8, 0x46#8, 0x38#8, 0x00#8⟩ }

/-- The reset state in a framer state. -/
def framer (f : FramerState) : State := { State.reset with fs := f }

/-- One field of the next state of an operation. -/
def after {α : Type} (i : Instr) (st : State) (f : State → α) : Option α := (nextOf (exec i st)).map f

/-- One field of the state at the end of a run. -/
def afterRun {α : Type} (evs : List Instr) (st : State) (f : State → α) : Option α := (nextOf (runEvents evs st)).map f

/-- `"S0AFF80"` -/
def s0AFF80 : Bytes7 := ⟨0x53#8, 0x30#8, 0x41#8, 0x46#8, 0x46#8, 0x38#8, 0x30#8⟩

/-- `"s0AFF80"` -/
def lower : Bytes7 := { s0AFF80 with b0 := 0x73#8 }

/-- A node whose broadcast was marked at 1000, as in WE-10. -/
def marked (role : Role) (rx : List Bytes7) : Node :=
  ⟨{ State.reset with role := role, btDue := false, btStamp := 1000#32 }, rx, []⟩

/-! ### WellFormed smoke: each check refuses an ill-formed term -/

theorem test_wf_refuses_cmdIgnore_of_S : (Instr.cmdIgnore s0AFF80).wellFormed = false := by decide
theorem test_wf_admits_cmdIgnore_of_s : (Instr.cmdIgnore lower).wellFormed = true := by decide
theorem test_config_admits_lce : Config.lce.admitted = true := by decide
theorem test_config_refuses_no_led : ({ Config.lce with stripLen := 0 } : Config).admitted = false := by decide
theorem test_config_refuses_cur_hue : ({ Config.lce with curReset := ⟨240, 0, 255⟩ } : Config).admitted = false := by decide
theorem test_config_refuses_tgt_hue : ({ Config.lce with tgtReset := ⟨240, 255, 128⟩ } : Config).admitted = false := by decide
theorem test_config_refuses_wide_cur : ({ Config.lce with curReset := ⟨0, 256, 255⟩ } : Config).admitted = false := by decide
theorem test_config_refuses_wide_tgt : ({ Config.lce with tgtReset := ⟨239, 255, 256⟩ } : Config).admitted = false := by decide
theorem test_config_refuses_wide_hue :
    ({ Config.lce with hueMax := 300, curReset := ⟨256, 0, 0⟩ } : Config).admitted = false := by decide
theorem test_config_refuses_zero_sextant : ({ Config.lce with sextant := 0 } : Config).admitted = false := by decide
theorem test_config_refuses_zero_divisor : ({ Config.lce with convDiv := 0 } : Config).admitted = false := by decide
theorem test_config_refuses_short_table :
    ({ Config.lce with hsvTable := Config.tableT.take 5 } : Config).admitted = false := by decide
theorem test_config_refuses_wide_levels : ({ Config.lce with convDiv := 128 } : Config).admitted = false := by decide
theorem test_config_refuses_payload_of_8 : ({ Config.lce with payloadLen := 8 } : Config).admitted = false := by decide
theorem test_config_refuses_payload_of_0 : ({ Config.lce with payloadLen := 0 } : Config).admitted = false := by decide
theorem test_config_refuses_clock_of_0 : ({ Config.lce with clockW := 0 } : Config).admitted = false := by decide
theorem test_config_refuses_wide_t0 : ({ Config.lce with t0 := 4294967296 } : Config).admitted = false := by decide
theorem test_config_refuses_t0_beyond_clock :
    ({ Config.lce with clockW := 16, t0 := 65536 } : Config).admitted = false := by decide
theorem test_config_admits_other_values :
    ({ Config.lce with stripLen := 1, clockW := 16, payloadLen := 4, t0 := 65535 } : Config).admitted = true ∧
    ({ Config.lce with clockW := 64 } : Config).admitted = true := by decide
theorem test_draw_of_wide_stamp_does_not_fit :
    (({ Draw.zero Config.lce with btStamp := 65536#32 } : Draw).fits { Config.lce with clockW := 16 }) = false := by decide
theorem test_draw_of_4_does_not_fit : (({ Draw.zero Config.lce with frame := List.replicate 4 0#24 } : Draw).fits Config.lce) =
    false := by decide

/-! ### Decoding: words written out from R52 and the words of 95 section 2.9 and section 3 -/

theorem test_decode_uartByte : decodeEvent 0x0000000000000057#64 = .instr (.uartByte 0x57#8) := by decide
theorem test_decode_uartByte_bit8 : decodeEvent 0x0000000000000157#64 = .invalid .mustBeZero := by decide
theorem test_decode_usbCmd :
    decodeEvent 0x2044463230303053#64 = .instr (.usbCmd ⟨0x53#8, 0x30#8, 0x30#8, 0x30#8, 0x32#8, 0x46#8, 0x44#8⟩) := by decide
theorem test_decode_usbCmd_bit56 : decodeEvent 0x2130303030303053#64 = .invalid .mustBeZero := by decide
theorem test_decode_tick : decodeEvent 0x40000000FFFFFFFE#64 = .instr (.tick 4294967294#32) := by decide
theorem test_decode_tick_bit32 : decodeEvent 0x4000000100000000#64 = .invalid .mustBeZero := by decide
theorem test_decode_radioSet : decodeEvent 0x60000000000201FA#64 = .instr (.radioSet 250#8 1#8 2#8) := by decide
theorem test_decode_radioSet_bit24 : decodeEvent 0x60000000010201FA#64 = .invalid .mustBeZero := by decide
theorem test_decode_bcastMark : decodeEvent 0x8000000000000064#64 = .instr (.bcastMark 100#32) := by decide
theorem test_decode_bcastMark_bit60 : decodeEvent 0x9000000000000064#64 = .invalid .mustBeZero := by decide
theorem test_decode_readStatus : decodeEvent 0xA000000000000000#64 = .instr .readStatus := by decide
theorem test_decode_readStatus_bit0 : decodeEvent 0xA000000000000001#64 = .invalid .mustBeZero := by decide
theorem test_decode_tag6 : decodeEvent 0xC000000000000000#64 = .invalid .reservedTag := by decide
theorem test_decode_tag7 : decodeEvent 0xE000000000000000#64 = .invalid .reservedTag := by decide
theorem test_decode_cmdSet : decode (.command s0AFF80) =
    .instr (.cmdSet 0x30#8 0x41#8 0x46#8 0x46#8 0x38#8 0x30#8) := by decide
theorem test_decode_cmdIgnore : decode (.command lower) = .instr (.cmdIgnore lower) := by decide

/-- The table's rows exclude each other (spec/opcode_table.json; R52): no two rows agree on the bits that both fix. -/
theorem test_event_rows_disjoint :
    eventTable.Pairwise fun r q => r.pattern &&& (r.mask &&& q.mask) ≠ q.pattern &&& (r.mask &&& q.mask) := by decide

/-- The table's CMD7 rows, eight bits each: the letter, the other bytes zero. -/
theorem test_tableWord_cmdSet : decodeTableWord 8 0x53 = some (.cmdSet 0#8 0#8 0#8 0#8 0#8 0#8) := by decide
theorem test_tableWord_cmdIgnore :
    decodeTableWord 8 0x00 = some (.cmdIgnore ⟨0#8, 0#8, 0#8, 0#8, 0#8, 0#8, 0#8⟩) := by decide
theorem test_tableWord_tick : decodeTableWord 64 0x400000000000000A = some (.tick 10#32) := by decide
theorem test_tableWord_refused : decodeTableWord 64 0xC000000000000000 = none := by decide
theorem test_tableWord_too_long : decodeTableWord 72 0 = none := by decide

/-- R62: the four framer codes, and each code's state. -/
theorem test_framer_codes :
    (FramerState.wait.code = 0b00#2 ∧ FramerState.sig1.code = 0b01#2 ∧ FramerState.sig2.code = 0b10#2 ∧
      FramerState.buffer.code = 0b11#2) ∧ ∀ x : BitVec 2, (FramerState.ofCode x).code = x := by decide

/-! ### HSV2RGB: table CV of 95 section 2.1, in four parts -/

theorem test_hsv2rgb_full_colour_1 :
    ∀ r ∈ ([(0, 255, 255, 0x00FEFF#24),
     (20, 255, 255, 0x007FFF#24),
     (39, 255, 255, 0x0006FF#24),
     (40, 255, 255, 0x0000FF#24),
     (60, 255, 255, 0x7F00FF#24),
     (79, 255, 255, 0xF800FF#24),
     (80, 255, 255, 0xFF00FE#24),
     (100, 255, 255, 0xFF007F#24),
     (119, 255, 255, 0xFF0006#24)] :
      List (Int × Int × Int × Rgb)), hsv2rgb Config.lce r.1 r.2.1 r.2.2.1 = r.2.2.2 := by decide

theorem test_hsv2rgb_full_colour_2 :
    ∀ r ∈ ([(120, 255, 255, 0xFF0000#24),
     (140, 255, 255, 0xFF7F00#24),
     (159, 255, 255, 0xFFF800#24),
     (160, 255, 255, 0xFEFF00#24),
     (180, 255, 255, 0x7FFF00#24),
     (199, 255, 255, 0x06FF00#24),
     (200, 255, 255, 0x00FF00#24),
     (220, 255, 255, 0x00FF7F#24),
     (239, 255, 255, 0x00FFF8#24)] :
      List (Int × Int × Int × Rgb)), hsv2rgb Config.lce r.1 r.2.1 r.2.2.1 = r.2.2.2 := by decide

theorem test_hsv2rgb_corners :
    ∀ r ∈ ([(0, 0, 255, 0xFEFEFF#24),
     (120, 0, 255, 0xFFFEFE#24),
     (239, 0, 0, 0x000000#24),
     (100, 128, 0, 0x000000#24),
     (100, 0, 1, 0x010000#24),
     (1, 1, 254, 0xFCFDFE#24),
     (2, 2, 253, 0xFAFCFD#24),
     (3, 3, 252, 0xF8FBFC#24),
     (10, 128, 200, 0x63AEC8#24),
     (50, 100, 150, 0x695A96#24),
     (128, 128, 128, 0x804C3F#24),
     (239, 255, 128, 0x00807C#24)] :
      List (Int × Int × Int × Rgb)), hsv2rgb Config.lce r.1 r.2.1 r.2.2.1 = r.2.2.2 := by decide

theorem test_hsv2rgb_out_of_range :
    ∀ r ∈ ([(240, 0, 0, 0xFFFFFF#24),
     (255, 255, 255, 0xFFFFFF#24),
     (-1, 0, 0, 0xFFFFFF#24),
     (0, -1, 0, 0x000000#24),
     (0, 0, 256, 0x000000#24),
     (300, -5, 10, 0x000000#24)] :
      List (Int × Int × Int × Rgb)), hsv2rgb Config.lce r.1 r.2.1 r.2.2.1 = r.2.2.2 := by decide

/-! ### HEXD: 95 section 2.5 -/

theorem test_hexd_digits :
    [0x30#8, 0x39#8, 0x41#8, 0x46#8, 0x61#8, 0x66#8].map hexd = [0#4, 9#4, 10#4, 15#4, 10#4, 15#4] := by decide
theorem test_hexd_other :
    [0x2F#8, 0x3A#8, 0x40#8, 0x47#8, 0x60#8, 0x67#8, 0x00#8, 0x20#8, 0x7F#8, 0x80#8, 0xFF#8].all (fun c => hexd c == 0#4) =
      true := by decide

/-! ### EMIT: 95 section 2.4 -/

/-- SO-1: the 24 data bits of 0x00807C, written out. -/
theorem test_emit_bits : wireBits 0x00807C#24 =
    [false, false, false, false, false, false, false, false, true, false, false, false, false, false, false, false,
     false, true, true, true, true, true, false, false] := by decide
/-- SO-1: 73 writes, the first three and the last four. -/
theorem test_emit_ends :
    (emitWrites [0x00807C#24]).length = 73 ∧
    (emitWrites [0x00807C#24]).take 3 = [⟨.sck, false⟩, ⟨.sd, false⟩, ⟨.sck, true⟩] ∧
    (emitWrites [0x00807C#24]).drop 69 = [⟨.sck, false⟩, ⟨.sd, false⟩, ⟨.sck, true⟩, ⟨.sck, false⟩] := by decide
/-- SO-3 and SO-4: the levels at the end. -/
theorem test_emit_levels :
    lastLevel .sd false (emitWrites [0xFFFFFF#24]) = true ∧ lastLevel .sck true (emitWrites [0xFFFFFF#24]) = false ∧
    lastLevel .sd false (emitWrites [0x000001#24]) = true := by decide

/-! ### One step of each operation -/

/-- AN-3: `tick 4` after reset. -/
theorem test_tick_steps : after (.tick 4#32) State.reset (fun t => (t.cur, t.tLast, t.frame.head?, t.trace.length)) =
    some (⟨1#8, 1#8, 254#8⟩, 4#32, some 0xFCFDFE#24, 361) := by decide +kernel
/-- AN-5: the clock wraps; elapsed 3 is stopped and elapsed 4 is not. -/
theorem test_tick_wraps :
    after (.tick 1#32) (colours ⟨0#8, 0#8, 0#8⟩ ⟨9#8, 9#8, 9#8⟩ 0xFFFFFFFE#32) (fun t => (t.cur.h, t.tLast)) =
      some (0#8, 0xFFFFFFFE#32) ∧
    after (.tick 2#32) (colours ⟨0#8, 0#8, 0#8⟩ ⟨9#8, 9#8, 9#8⟩ 0xFFFFFFFE#32) (fun t => (t.cur.h, t.tLast)) =
      some (1#8, 2#32) := by decide
/-- CP-6: `usb "S1G2H3I"`. -/
theorem test_usbCmd_lenient :
    after (.usbCmd ⟨0x53#8, 0x31#8, 0x47#8, 0x32#8, 0x48#8, 0x33#8, 0x49#8⟩) (marked .uncoordinated []).lce
      (fun t => (t.tgt, t.btDue, t.role)) = some (⟨16#8, 32#8, 48#8⟩, true, .uncoordinated) := by decide
/-- CP-7: `usb "s0AFF80"`. -/
theorem test_usbCmd_lower_case :
    after (.usbCmd lower) (marked .uncoordinated []).lce (fun t => (t.tgt, t.btDue)) =
      some (⟨239#8, 255#8, 128#8⟩, false) := by decide
/-- UF-7: the seventh byte dispatches and promotes. -/
theorem test_uartByte_completes :
    after (.uartByte 0x30#8) (inBuffer 6#3 0x53#8) (fun t => (t.tgt, t.role, t.fs)) =
      some (⟨10#8, 255#8, 128#8⟩, .coordinator, .wait) := by decide
/-- UF-1: `'W'` in SIG2 is tried again and starts a new signature. -/
theorem test_uartByte_restarts : after (.uartByte 0x57#8) (framer .sig2) (·.fs) = some .sig1 := by decide
/-- RP-3: `radio 250 10 20` keeps BT_STAMP. -/
theorem test_radioSet_clamps :
    after (.radioSet 250#8 10#8 20#8) (marked .uncoordinated []).lce (fun t => (t.tgt, t.btDue, t.btStamp)) =
      some (⟨239#8, 10#8, 20#8⟩, true, 1000#32) := by decide
/-- RP-2: `mark 1000`. -/
theorem test_bcastMark : after (.bcastMark 1000#32) State.reset (fun t => (t.btDue, t.btStamp)) = some (false, 1000#32) := by
  decide
/-- RP-2: `status` after `mark 1000`. -/
theorem test_readStatus : after .readStatus (marked .uncoordinated []).lce (·.statusOut) =
    some [⟨.uncoordinated, ⟨239#8, 255#8, 128#8⟩, false, 1000#32⟩] := by decide
/-- CP-4: `"SF00000"` clamps 240. -/
theorem test_cmdSet_clamps :
    after (.cmdSet 0x46#8 0x30#8 0x30#8 0x30#8 0x30#8 0x30#8) State.reset (·.tgt) = some ⟨239#8, 0#8, 0#8⟩ := by decide
/-- CP-8: `"Q123456"` leaves everything. -/
theorem test_cmdIgnore : after (.cmdIgnore ⟨0x51#8, 0x31#8, 0x32#8, 0x33#8, 0x34#8, 0x35#8, 0x36#8⟩) State.reset id =
    some State.reset := by decide

/-! ### Short runs -/

/-- UF-2: a signature inside a payload is payload (the last byte is `'a'`). -/
theorem test_payload_is_not_scanned :
    afterRun ([0x57#8, 0x78#8, 0x7C#8, 0x57#8, 0x78#8, 0x7C#8, 0x57#8, 0x78#8, 0x7C#8, 0x61#8].map Instr.uartByte) State.reset
      (fun t => (t.fs, t.role, t.tgt)) = some (.wait, .coordinator, ⟨239#8, 255#8, 128#8⟩) := by decide
/-- P4, events 6 and 8: `set 0 3 253` after convergence at `(0, 2, 253)` with the clock about to wrap. -/
theorem test_script_set_then_tick :
    ((nextOf (runScript Config.lce [.set 0#8 3#8 253#8, .ticks 1#32 1#32 2] (colours ⟨0#8, 2#8, 253#8⟩ ⟨0#8, 2#8, 253#8⟩ 0xFFFFFFFE#32))).map
      fun t => (t.cur, t.tLast, t.frame.head?)) = some (⟨0#8, 3#8, 253#8⟩, 2#32, some 0xF9FCFD#24) := by decide
/-- WE-14: the packet of `(10, 255, 128)`. -/
theorem test_packet : packetOf Config.lce ⟨10#8, 255#8, 128#8⟩ =
    ⟨0x06#8, 0x57#8, 0x78#8, 0x53#8, 0x0A#8, 0xFF#8, 0x80#8⟩ := by decide
/-- R111: a duplicated packet reaches a peer twice, and the peer applies one a round. -/
theorem test_medium_duplicates :
    ((nextOf (andThen (System.act (.deliver 0 0)
        ⟨[⟨Config.lce, marked .uncoordinated []⟩], [packetOf Config.lce ⟨1#8, 2#8, 3#8⟩]⟩)
      fun y => andThen (System.act (.deliver 0 0) y) (System.act (.round 0 ⟨[], [], 0#32, 0#32, true⟩)))).map
        fun y => (y.air.length, y.nodes.map fun m => (m.node.lce.tgt, m.node.rx.length))) =
      some (1, [(⟨1#8, 2#8, 3#8⟩, 1)]) := by decide

/-- R105, R114: a coordinator of a system takes one UART byte and makes one check outside any round, and a peer's RADIO_SET is
not presented from outside its agent (R116). -/
theorem test_system_acts_outside_rounds :
    ((nextOf (andThen (System.act (.serve 0 (.uartByte 0x57#8))
        ⟨[⟨Config.lce, marked .coordinator []⟩, ⟨Config.lce, marked .uncoordinated []⟩], []⟩)
      fun y => andThen (System.act (.radioCheck 0 6000#32 true) y)
        (System.act (.serve 1 (.radioSet 1#8 2#8 3#8))))).map
          fun y => y.nodes.map fun m => (m.node.lce.fs, m.node.lce.tgt.h, m.node.tx.length)) =
      some [(.sig1, 239#8, 1), (.wait, 239#8, 0)] := by decide

/-! ### A block of another configuration (00_scope.md R3): one LED, a 16-bit clock -/

/-- `L = 1`, `CLOCK_W = 16`. -/
def small : Config := { Config.lce with stripLen := 1, clockW := 16 }

/-- R74, R77, R82 with `L = 1` and `CLOCK_W = 16`: from a stamp of 0xFFFE, a TICK at 2 has elapsed 4, writes one entry and
makes 73 writes. -/
theorem test_small_block_tick :
    ((nextOf (execWith small (.tick 2#32) (colours ⟨0#8, 0#8, 255#8⟩ ⟨239#8, 255#8, 128#8⟩ 0xFFFE#32))).map
      fun t => (t.cur, t.tLast, t.frame, t.trace.length)) = some (⟨1#8, 1#8, 254#8⟩, 2#32, [0xFCFDFE#24], 73) := by
  decide +kernel
/-- And a TICK at 1 has elapsed 3. -/
theorem test_small_block_limiter :
    ((nextOf (execWith small (.tick 1#32) (colours ⟨0#8, 0#8, 255#8⟩ ⟨239#8, 255#8, 128#8⟩ 0xFFFE#32))).map
      fun t => (t.cur.h, t.tLast)) = some (0#8, 0xFFFE#32) := by decide

/-- R6: 65536 does not fit 16 bits, and 65535 does. -/
theorem test_small_block_stores_are_checked :
    execWith small (.tick 65536#32) (colours ⟨0#8, 0#8, 255#8⟩ ⟨239#8, 255#8, 128#8⟩ 0xFF00#32) = .fault .storeOutOfRange ∧
    execWith small (.bcastMark 65536#32) State.reset = .fault .storeOutOfRange ∧
    (nextOf (execWith small (.bcastMark 65535#32) State.reset)).map (·.btStamp) = some 65535#32 :=
  ⟨rfl, rfl, by decide⟩
/-- R4, R111 (log 15): two nodes of one system with strips of five and of one LED; a TICK of each writes its own frame. -/
theorem test_system_of_two_strips :
    ((nextOf (andThen (System.act (.serve 0 (.tick 4#32)) ⟨[⟨Config.lce, ⟨State.reset, [], []⟩⟩, ⟨small, ⟨State.reset, [], []⟩⟩], []⟩)
      (System.act (.serve 1 (.tick 4#32))))).map fun y => y.nodes.map fun m => m.node.lce.trace.length) = some [361, 73] := by
  decide +kernel

/-! ### Witnesses: a state and operands that meet a statement's hypotheses, at the bounds of its clauses -/

theorem witness_RoleStartsUncoordinatedAndIsNeverCleared :
    ∃ s t, step s = .next t ∧ s.role = .coordinator := by
  exact ⟨{ State.reset with role := .coordinator, input := [0x400000000000000A#64] }, _, rfl, rfl⟩
theorem witness_BadConfigurationsAreRefused :
    (let c := { Config.lce with stripLen := 0 }; c.stripLen = 0) ∧
    (let c := { Config.lce with curReset := ⟨240, 0, 0⟩ }; c.hueMax < c.curReset.h) ∧
    (let c := { Config.lce with tgtReset := ⟨240, 0, 0⟩ }; c.hueMax < c.tgtReset.h) ∧
    (let c := { Config.lce with curReset := ⟨256, 256, 256⟩ }; 256 ≤ c.curReset.h ∧ 256 ≤ c.curReset.s ∧ 256 ≤ c.curReset.v) ∧
    (let c := { Config.lce with tgtReset := ⟨256, 256, 256⟩ }; 256 ≤ c.tgtReset.h ∧ 256 ≤ c.tgtReset.s ∧ 256 ≤ c.tgtReset.v) := by
  decide
/-- WE-3, WE-4 and the other bounds of both checks. -/
theorem witness_ConversionChecksSaturationAndValueFirst :
    (let s : Int := -1; s < 0) ∧ (let v : Int := 256; 255 < v) ∧
    (let (h, s, v) : Int × Int × Int := (240, 0, 255); 0 ≤ s ∧ s ≤ 255 ∧ 0 ≤ v ∧ v ≤ 255 ∧ (h < 0 ∨ 239 < h)) ∧
    (let (h, s, v) : Int × Int × Int := (-1, 255, 0); 0 ≤ s ∧ s ≤ 255 ∧ 0 ≤ v ∧ v ≤ 255 ∧ (h < 0 ∨ 239 < h)) := by decide
theorem witness_ConversionFollowsTheSextantTable :
    (let (i, f, s, v) : Nat × Nat × Nat × Nat := (0, 0, 0, 0); i < 6 ∧ f < 40 ∧ s ≤ 255 ∧ v ≤ 255) ∧
    (let (i, f, s, v) : Nat × Nat × Nat × Nat := (5, 39, 255, 255); i < 6 ∧ f < 40 ∧ s ≤ 255 ∧ v ≤ 255) := by decide
theorem witness_ConversionLevelsAreOrdered :
    let (s, v, f) : Int × Int × Int := (255, 255, 40); 0 ≤ s ∧ s ≤ 255 ∧ 0 ≤ v ∧ v ≤ 255 ∧ 0 ≤ f ∧ f ≤ 40 := by decide
theorem witness_SextantRowsMeetAtTheBoundary :
    (let (k, s, v) : Nat × Int × Int := (4, 255, 255); k < 6 ∧ 0 ≤ s ∧ s ≤ 255 ∧ 0 ≤ v ∧ v ≤ 255 ∧ k % 2 = 0) ∧
    (let (k, s, v) : Nat × Int × Int := (5, 0, 0); k < 6 ∧ 0 ≤ s ∧ s ≤ 255 ∧ 0 ≤ v ∧ v ≤ 255) := by decide
theorem witness_NeighbouringHuesDifferByAtMostSeven :
    let (h, s, v) : Nat × Nat × Nat := (238, 255, 255); h + 1 ≤ 239 ∧ s ≤ 255 ∧ v ≤ 255 := by decide
theorem witness_TickInsideTheRateLimitDoesNothing : (3#32 - State.reset.tLast).toNat < 4 := by decide
theorem witness_TickOnConvergedBlockWritesOnlyTheStamp :
    let st := colours ⟨7#8, 7#8, 7#8⟩ ⟨7#8, 7#8, 7#8⟩ 0#32; 4 ≤ (4#32 - st.tLast).toNat ∧ st.cur = st.tgt := by decide
theorem witness_TickStepsConvertsAndEmits :
    (4 ≤ (4#32 - State.reset.tLast).toNat ∧ State.reset.cur ≠ State.reset.tgt) ∧
    (let st := colours ⟨0#8, 0#8, 255#8⟩ ⟨239#8, 255#8, 128#8⟩ 0xFFFE#32
     small.admitted = true ∧ (2#32).toNat < 2 ^ small.clockW ∧ (small.rateMs : Int) ≤ (((2#32).toNat : Int) - st.tLast.toNat) % 2 ^ small.clockW ∧ st.cur ≠ st.tgt) :=
  by decide
theorem witness_EffectiveTicksFollowTheClosedForm :
    EffectiveFrom Config.lce State.reset.tLast [4#32, 8#32, 2#32] := ⟨by decide, by decide, by decide, trivial⟩
/-- AN-10 converges at the second of three effective ticks. -/
theorem witness_ConvergesInExactlyTheLargestDistance :
    (∃ t, EffectiveFrom Config.lce 0#32 [4#32, 8#32] ∧
      runEvents ([4#32, 8#32].map Instr.tick) (colours ⟨0#8, 0#8, 0#8⟩ ⟨2#8, 1#8, 0#8⟩ 0#32) = .next t) ∧
    hsvDist ⟨0#8, 0#8, 0#8⟩ ⟨2#8, 1#8, 0#8⟩ = 2 := by
  exact ⟨⟨_, ⟨by decide, by decide, trivial⟩, rfl⟩, by decide⟩
theorem witness_ConvergedBlockStaysSilent :
    let st := colours ⟨7#8, 7#8, 7#8⟩ ⟨7#8, 7#8, 7#8⟩ 0#32
    st.cur = st.tgt ∧ ∀ i ∈ [Instr.tick 8#32, .bcastMark 8#32, .readStatus], quietEvent i = true := by decide
theorem witness_StripWritesAreFourMillisecondsApart :
    ∃ t u w, exec (.tick 4#32) State.reset = .next t ∧ t.trace ≠ State.reset.trace ∧
      (∀ i ∈ [Instr.readStatus], i.port ≠ some .tickIn) ∧ runEvents [.readStatus] t = .next u ∧
      exec (.tick 8#32) u = .next w ∧ w.trace ≠ u.trace := by
  let t := State.reset.pastLimiter Config.lce 4#32
  let u := t.logStatus (statusOf t)
  have ht : t.trace.length = 361 := by decide +kernel
  have hw : (u.pastLimiter Config.lce 8#32).trace.length = 722 := by decide +kernel
  have hu : u.trace.length = 361 := ht
  refine ⟨t, u, u.pastLimiter Config.lce 8#32, rfl, fun h => ?_, by decide, rfl, rfl, fun h => ?_⟩
  · rw [h] at ht
    cases ht
  · rw [h, hu] at hw
    cases hw
theorem witness_BackwardClockPassesTheLimiter :
    (1 ≤ 1 ∧ 1 ≤ 2 ^ 32 - 4) ∧ (1 ≤ 2 ^ 32 - 4 ∧ 2 ^ 32 - 4 ≤ 2 ^ 32 - 4) := by decide
theorem witness_HexDigitsDecodeLeniently :
    (∀ c ∈ [48, 57], 0x30 ≤ c ∧ c ≤ 0x39) ∧ (∀ c ∈ [65, 70], 0x41 ≤ c ∧ c ≤ 0x46) ∧ (∀ c ∈ [97, 102], 0x61 ≤ c ∧ c ≤ 0x66) ∧
    ∀ c ∈ [47, 58, 64, 71, 96, 103], ¬ (0x30 ≤ c ∧ c ≤ 0x39) ∧ ¬ (0x41 ≤ c ∧ c ≤ 0x46) ∧ ¬ (0x61 ≤ c ∧ c ≤ 0x66) := by decide
theorem witness_UsbCmdRunsTheCommandOfItsBuffer : s0AFF80.b0 = 0x53#8 ∧ lower.b0 ≠ 0x53#8 := by decide
theorem witness_OnlyTheLetterSelectsTheCommand : s0AFF80.b0 = 0x53#8 ∧ lower.b0 ≠ 0x53#8 := by decide
theorem witness_CmdIgnoreChangesNothing :
    lower.b0 ≠ 0x53#8 ∧ (inBuffer 6#3 0x73#8).fs = .buffer ∧ (inBuffer 6#3 0x73#8).plen = 6#3 ∧
      (inBuffer 6#3 0x73#8).pay.b0 ≠ 0x53#8 := by decide
theorem witness_UsbCmdIsIdempotent : ∃ t, exec (.usbCmd s0AFF80) State.reset = .next t ∧ t ≠ State.reset := by
  exact ⟨_, rfl, by decide⟩
theorem witness_UartByteInWait : State.reset.fs = .wait := by decide
/-- A byte for each clause: 0x78, 0x57, and 0x7C, which is neither. -/
theorem witness_UartByteInSig1 :
    (framer .sig1).fs = .sig1 ∧ (let b := 0x78#8; b = 0x78#8) ∧ (let b := 0x57#8; b ≠ 0x78#8 ∧ b = 0x57#8) ∧
      (let b := 0x7C#8; b ≠ 0x78#8 ∧ b ≠ 0x57#8) := by decide
/-- A byte for each clause: 0x7C, 0x57, and 0x78, which is neither. -/
theorem witness_UartByteInSig2 :
    (framer .sig2).fs = .sig2 ∧ (let b := 0x7C#8; b = 0x7C#8) ∧ (let b := 0x57#8; b ≠ 0x7C#8 ∧ b = 0x57#8) ∧
      (let b := 0x78#8; b ≠ 0x7C#8 ∧ b ≠ 0x57#8) := by decide
theorem witness_UartByteInBuffer :
    ((inBuffer 0#3 0x53#8).fs = .buffer ∧ (inBuffer 0#3 0x53#8).plen.toNat ≤ 6 ∧ (inBuffer 0#3 0x53#8).plen.toNat < 6) ∧
    ((inBuffer 5#3 0x53#8).fs = .buffer ∧ (inBuffer 5#3 0x53#8).plen.toNat ≤ 6 ∧ (inBuffer 5#3 0x53#8).plen.toNat < 6) ∧
    ((inBuffer 6#3 0x53#8).fs = .buffer ∧ (inBuffer 6#3 0x53#8).plen.toNat ≤ 6 ∧ (inBuffer 6#3 0x53#8).plen.toNat = 6) := by
  decide
theorem witness_FramerTriesAByteAtMostTwice :
    ∃ r, framerStep Config.lce 0x57#8 (framer .sig1) = .next r ∧ r.again = true := by
  exact ⟨_, rfl, by decide⟩
/-- A state or a time on each side of every bound. -/
theorem witness_StoresFaultExactlyWhereTheyDoNotFit :
    ((inBuffer 7#3 0x53#8).fs = .buffer ∧ (inBuffer 7#3 0x53#8).plen = 7#3 ∧ (inBuffer 6#3 0x53#8).plen ≠ 7#3) ∧
    ((small.rateMs : Int) ≤ (((65536#32).toNat : Int) - (0xFFFC#32).toNat) % 2 ^ small.clockW ∧
      ¬ (small.rateMs : Int) ≤ (((65536#32).toNat : Int) - (0xFFFD#32).toNat) % 2 ^ small.clockW) ∧
    2 ^ small.clockW ≤ (65536#32).toNat ∧ ¬ 2 ^ small.clockW ≤ (65535#32).toNat ∧
    ∃ st f, execWith small (.bcastMark 65536#32) st = .fault f :=
  ⟨by decide, by decide, by decide, by decide, State.reset, _, rfl⟩
theorem witness_FramedCommandIsTheDirectOnePlusPromotion : ∀ f ∈ [FramerState.wait, .sig1, .sig2], (framer f).fs ≠ .buffer := by
  decide
theorem witness_DecodeOfEncode :
    ∀ i ∈ [Instr.uartByte 0xFF#8, .usbCmd s0AFF80, .tick 0xFFFFFFFF#32, .radioSet 1#8 2#8 3#8, .bcastMark 0xFFFFFFFF#32,
      .readStatus, .cmdSet 1#8 2#8 3#8 4#8 5#8 6#8, .cmdIgnore lower], i.wellFormed = true := by decide
theorem witness_EncodeOfDecode :
    decode (.event 0x60000000000201FA#64) = .instr (.radioSet 250#8 1#8 2#8) ∧
    decode (.command lower) = .instr (.cmdIgnore lower) := by decide
theorem witness_DecoderAgreesWithTheOpcodeTable :
    (∃ r ∈ eventTable, r.hits 0x8000000000000064#64 = true) ∧
    ∀ r ∈ eventTable, r.hits 0xC000000000000000#64 = false ∧ r.hits 0x0000000000000157#64 = false := by decide
theorem witness_StepRunsTheDecodedEvent :
    let s := { State.reset with input := [0x400000000000000A#64, 0xA000000000000000#64] }
    s.input = 0x400000000000000A#64 :: [0xA000000000000000#64] ∧ decodeEvent 0x400000000000000A#64 = .instr (.tick 10#32) := by
  decide
theorem witness_StepRefusesInvalidWords :
    (∀ w, ({ State.reset with input := [w] } : State).input = w :: []) ∧
    (∀ r ∈ eventTable, r.hits 0xC000000000000000#64 = false) ∧ (∀ r ∈ eventTable, r.hits 0xE000000000000000#64 = false) ∧
    (∀ r ∈ eventTable, r.hits 0xA000000000000001#64 = false) ∧ ∀ r ∈ eventTable, r.hits 0x0000000000000157#64 = false :=
  ⟨fun _ => rfl, by decide, by decide, by decide, by decide⟩
theorem witness_StepWithoutEventWaits : State.reset.input = [] := by decide
theorem witness_PresentedWordIsRun :
    decodeTableWord 8 0x53 = some (.cmdSet 0#8 0#8 0#8 0#8 0#8 0#8) ∧
    decodeTableWord 64 0xA000000000000000 = some .readStatus := by decide
theorem witness_InvariantsHoldAfterPowerOn :
    Config.lce.admitted = true ∧ (Draw.zero Config.lce).fits Config.lce = true := by decide
theorem witness_EveryStepKeepsTheInvariants :
    ∃ t, Inv Config.lce (State.reset.withFetchWord 64 0x4000000000000004) ∧
      step (State.reset.withFetchWord 64 0x4000000000000004) = .next t ∧ t.trace.length = 361 := by
  refine ⟨_, ⟨by decide, by decide, by decide, fun h => absurd rfl h, by decide, by decide, by decide, ⟨[], rfl⟩,
    fun h => absurd rfl h, fun h => absurd rfl h⟩, rfl, by decide +kernel⟩
/-- The clause for every configuration. -/
theorem witness_EveryStepKeepsTheInvariants_small :
    let s := (powerOn small (Draw.zero small)).withFetchWord 64 0x4000000000000004
    ∃ t, small.admitted = true ∧ Inv small s ∧ stepWith small s = .next t ∧ t.trace.length = 73 := by
  refine ⟨_, by decide, ⟨by decide, by decide, by decide, fun h => absurd rfl h, by decide, by decide, by decide, ⟨[], rfl⟩,
    fun h => absurd rfl h, fun h => absurd rfl h⟩, rfl, by decide +kernel⟩
theorem witness_EveryOperationCompletes :
    (State.reset.fs = .buffer → State.reset.plen.toNat ≤ 6) ∧
    ((inBuffer 6#3 0x53#8).fs = .buffer → (inBuffer 6#3 0x53#8).plen.toNat ≤ 6) ∧
    let c : Config := { small with payloadLen := 4 }
    c.admitted = true ∧ ((inBuffer 3#3 0x53#8).fs = .buffer → (inBuffer 3#3 0x53#8).plen.toNat < c.payloadLen) ∧
      ∀ now, Instr.tick 65535#32 = .tick now ∨ Instr.tick 65535#32 = .bcastMark now → now.toNat < 2 ^ c.clockW := by
  refine ⟨by decide, by decide, by decide, by decide, ?_⟩
  rintro now (h | h) <;> cases h
  decide
theorem witness_EveryInterleavingRunsToItsEnd :
    ((Draw.zero Config.lce).frame.length = 5 ∧ small.admitted = true ∧ (Draw.zero small).fits small = true) ∧
    IsInterleaving (fun p => match p with
        | .uartIn => [.uartByte 0x57#8, .uartByte 0x78#8]
        | .usbIn => [.usbCmd s0AFF80]
        | .tickIn => [.tick 4#32]
        | .radioIn => [.radioSet 1#8 2#8 3#8, .bcastMark 9#32]
        | .statusOut => [.readStatus])
      [.uartByte 0x57#8, .radioSet 1#8 2#8 3#8, .tick 4#32, .readStatus, .usbCmd s0AFF80, .bcastMark 9#32, .uartByte 0x78#8] ∧
    ∀ i ∈ [Instr.uartByte 0x57#8, .radioSet 1#8 2#8 3#8, .tick 4#32, .readStatus, .usbCmd s0AFF80, .bcastMark 9#32,
      .uartByte 0x78#8], timeFits small i = true := by
  refine ⟨by decide, ⟨by decide, ?_⟩, by decide⟩
  intro p
  cases p <;> decide
theorem witness_OnlyACompletedPayloadPromotes :
    ∃ t, exec (.uartByte 0x30#8) (inBuffer 6#3 0x51#8) = .next t ∧ t.role ≠ (inBuffer 6#3 0x51#8).role ∧
      (inBuffer 6#3 0x51#8).fs = .buffer ∧ (inBuffer 6#3 0x51#8).plen = 6#3 := by
  exact ⟨_, rfl, by decide, by decide, by decide⟩
theorem witness_RegistersChangeOnlyByTheirWriters :
    (∃ t, exec (.tick 4#32) State.reset = .next t ∧ t.cur ≠ State.reset.cur) ∧
    (∃ t, exec (.usbCmd s0AFF80) State.reset = .next t ∧ t.tgt ≠ State.reset.tgt) ∧
    (∃ t, exec (.uartByte 0x30#8) (inBuffer 6#3 0x53#8) = .next t ∧ t.tgt ≠ (inBuffer 6#3 0x53#8).tgt) ∧
    (∃ t, exec (.bcastMark 5#32) State.reset = .next t ∧ t.btDue ≠ State.reset.btDue ∧ t.btStamp ≠ State.reset.btStamp) ∧
    (∃ t, exec (.uartByte 0x57#8) State.reset = .next t ∧ t.fs ≠ State.reset.fs) ∧
    ∃ t, exec .readStatus State.reset = .next t ∧ t.statusOut ≠ State.reset.statusOut := by
  refine ⟨⟨_, rfl, ?_⟩, ⟨_, rfl, ?_⟩, ⟨_, rfl, ?_⟩, ⟨_, rfl, ?_, ?_⟩, ⟨_, rfl, ?_⟩, ⟨_, rfl, ?_⟩⟩ <;> decide +kernel
theorem witness_TraceGrowsByWholeEmits : ∃ t, exec (.tick 4#32) State.reset = .next t ∧ t.trace ≠ State.reset.trace := by
  exact ⟨_, rfl, fun h => absurd (congrArg List.length h) (by decide +kernel)⟩
theorem witness_HiddenRegistersNeverShow :
    ∃ b t, SameToOutputs State.reset b ∧ b.frame ≠ State.reset.frame ∧ b.pay ≠ State.reset.pay ∧
      exec (.tick 4#32) State.reset = .next t := by
  refine ⟨{ State.reset with frame := [1#24, 2#24, 3#24, 4#24, 5#24], pay := lower, sd := true, plen := 7#3 }, _,
    ⟨rfl, rfl, rfl, rfl, rfl, rfl, rfl, (fun h => by cases h), (fun h => by cases h), rfl, rfl, rfl⟩, by decide, by decide, rfl⟩
theorem witness_UnspecifiedResetValuesNeverShow :
    ∃ d e t, d ≠ e ∧ d.btStamp = e.btStamp ∧ runEvents [.tick 4#32, .readStatus] (powerOn Config.lce d) = .next t := by
  exact ⟨Draw.zero Config.lce, ⟨[1#24, 2#24, 3#24, 4#24, 5#24], 0#32, lower, true, true⟩, _, by decide, by decide, rfl⟩
/-- WE-10: 5000 ms after the mark the node broadcasts, 4999 ms after it does not. -/
theorem witness_CoordinatorBroadcastsWhenDue :
    (let n := marked .coordinator [];
      n.lce.role = .coordinator ∧ (n.lce.btDue = true ∨ 5000 ≤ (6000#32 - n.lce.btStamp).toNat) ∧ true = true) ∧
    (let n := marked .coordinator [];
      ¬ (n.lce.role = .coordinator ∧ (n.lce.btDue = true ∨ 5000 ≤ (5999#32 - n.lce.btStamp).toNat) ∧ true = true)) := by decide
/-- WE-11. -/
theorem witness_SetTargetForcesTheNextBroadcast :
    ∃ st, (marked .coordinator []).lce.role = .coordinator ∧
      ((∃ h s v, Instr.usbCmd s0AFF80 = .radioSet h s v) ∨ ∃ buf : Bytes7, Instr.usbCmd s0AFF80 = .usbCmd buf ∧ buf.b0 = 0x53#8) ∧
      exec (.usbCmd s0AFF80) (marked .coordinator []).lce = .next st := by
  exact ⟨_, by decide, .inr ⟨_, rfl, by decide⟩, rfl⟩
/-- WE-12 and a valid packet. -/
theorem witness_PeerAppliesValidPackets :
    (let p : Bytes7 := packetOf Config.lce ⟨10#8, 255#8, 128#8⟩;
      (marked .uncoordinated [p]).rx = p :: [] ∧ p.b0 = 0x06#8 ∧ p.b1 = 0x57#8 ∧ p.b2 = 0x78#8 ∧ p.b3 = 0x53#8) ∧
    (let p : Bytes7 := ⟨0x06#8, 0x57#8, 0x78#8, 0x58#8, 0x0A#8, 0xFF#8, 0x80#8⟩;
      (marked .uncoordinated [p]).rx = p :: [] ∧ ¬ (p.b0 = 0x06#8 ∧ p.b1 = 0x57#8 ∧ p.b2 = 0x78#8 ∧ p.b3 = 0x53#8)) := by decide
theorem witness_BroadcastCarriesTheTargetToAPeer :
    let x : Hsv := ⟨239#8, 255#8, 128#8⟩
    x.h.toNat ≤ 239 ∧ (marked .uncoordinated [packetOf Config.lce x]).rx = packetOf Config.lce x :: [] := by decide
theorem witness_CoordinatorsIgnoreReceivedPackets :
    ∃ m, (marked .coordinator [packetOf Config.lce ⟨1#8, 2#8, 3#8⟩]).lce.role = .coordinator ∧
      (marked .coordinator [packetOf Config.lce ⟨1#8, 2#8, 3#8⟩]).round Config.lce ⟨[], [], 6000#32, 6001#32, true⟩ = .next m := by
  exact ⟨_, by decide, rfl⟩
theorem witness_ScriptSetLineSetsThatTarget : (239#8).toNat ≤ 239 := by decide

end Sys2Proof.Tests
end

section
/-! PROOFS. 00_scope.md R4 and R6: which configurations power-on refuses, and where the store check faults. -/

namespace Sys2Proof.Machine

open Sys2Proof

/-! ### Configurations (R4, 10_state.md R39) -/

theorem hsvNat_fits_iff (c : Config) (x : HsvNat) :
    x.fits c = true ↔ x.h ≤ c.hueMax ∧ x.h < 256 ∧ x.s < 256 ∧ x.v < 256 := by
  simp [HsvNat.fits, and_assoc]

/-- The part of admission that the spec itself asks for: an LED, and reset colours that fit. -/
theorem strip_and_resets_of_admitted {c : Config} (h : c.admitted = true) :
    1 ≤ c.stripLen ∧ c.curReset.fits c = true ∧ c.tgtReset.fits c = true := by
  simp only [Config.admitted, Bool.and_eq_true, decide_eq_true_eq] at h
  tauto

theorem lce_admitted : Config.lce.admitted = true := by decide

theorem powerOnChecked_of_admitted {c : Config} (h : c.admitted = true) (d : Draw) :
    powerOnChecked c d = .next (powerOn c d) := if_pos h

theorem powerOnChecked_of_not_admitted {c : Config} (h : ¬ c.admitted = true) (d : Draw) :
    powerOnChecked c d = .refused .badConfiguration := if_neg h

/-- Settles O3: an admitted configuration has an LED and reset colours that fit, which each of the bad ones contradicts. -/
theorem badConfigurationsAreRefused : Obligations.BadConfigurationsAreRefused := by
  refine ⟨fun c d hbad => powerOnChecked_of_not_admitted (fun ha => ?_) d, powerOnChecked_of_admitted lce_admitted⟩
  obtain ⟨hlen, hcur, htgt⟩ := strip_and_resets_of_admitted ha
  rw [hsvNat_fits_iff] at hcur htgt
  omega

/-! ### The store check (R6) -/

/-- The limiter's comparison, on the integers of 41_animation_engine.md R74. -/
theorem le_elapsed_iff (c : Config) (now stamp : Clock) (n : Nat) :
    n ≤ elapsed c now stamp ↔ (n : Int) ≤ ((now.toNat : Int) - stamp.toNat) % 2 ^ c.clockW :=
  Int.le_toNat (Int.emod_nonneg _ (by positivity))

/-- PLEN is a 3-bit register (10_state.md R19), so 7 is its only value past the payload buffer. -/
theorem plen_past_payload_iff (p : BitVec 3) : ¬ p.toNat < payloadLen ↔ p = 7#3 := by
  revert p; decide

theorem execWith_uartByte_outOfRange_iff (c : Config) (b : Byte) (st : State) :
    execWith c (.uartByte b) st = .fault .storeOutOfRange ↔ st.fs = .buffer ∧ st.plen = 7#3 := by
  rw [execWith_uartByte, uartByte_eq_fault, plen_past_payload_iff, and_iff_left rfl]

theorem execWith_tick_outOfRange_iff (c : Config) (now : Clock) (st : State) :
    execWith c (.tick now) st = .fault .storeOutOfRange ↔
      (c.rateMs : Int) ≤ ((now.toNat : Int) - st.tLast.toNat) % 2 ^ c.clockW ∧ 2 ^ c.clockW ≤ now.toNat := by
  rw [execWith_tick, onTick_eq_fault, le_elapsed_iff, and_iff_left rfl]

theorem execWith_bcastMark_outOfRange_iff (c : Config) (now : Clock) (st : State) :
    execWith c (.bcastMark now) st = .fault .storeOutOfRange ↔ 2 ^ c.clockW ≤ now.toNat := by
  rw [execWith_bcastMark, storeClock_eq_fault, and_iff_left rfl]

/-- Only the three operations with a checked store can fault; the other five answer a next state. -/
theorem checkedStore_of_execWith_fault {c : Config} {i : Instr} {st : State} {f : Fault} (h : execWith c i st = .fault f) :
    (∃ b, i = .uartByte b) ∨ (∃ now, i = .tick now) ∨ ∃ now, i = .bcastMark now := by
  cases i with
  | uartByte b => exact .inl ⟨b, rfl⟩
  | tick now => exact .inr (.inl ⟨now, rfl⟩)
  | bcastMark now => exact .inr (.inr ⟨now, rfl⟩)
  | usbCmd | radioSet | readStatus | cmdSet | cmdIgnore => cases h

/-- In this hardware every `now` fits its register, so only the byte past the payload buffer is left. -/
theorem exec_outOfRange_iff (i : Instr) (st : State) :
    exec i st = .fault .storeOutOfRange ↔ (∃ b, i = .uartByte b) ∧ st.fs = .buffer ∧ st.plen = 7#3 := by
  rw [← execWith_lce]
  constructor
  · intro h
    obtain ⟨b, rfl⟩ | ⟨now, rfl⟩ | ⟨now, rfl⟩ := checkedStore_of_execWith_fault h
    · exact ⟨⟨b, rfl⟩, (execWith_uartByte_outOfRange_iff _ b st).mp h⟩
    · exact absurd ((execWith_tick_outOfRange_iff _ now st).mp h).2 (Nat.not_le.mpr (fits_lce now))
    · exact absurd ((execWith_bcastMark_outOfRange_iff _ now st).mp h) (Nat.not_le.mpr (fits_lce now))
  · rintro ⟨⟨b, rfl⟩, hpast⟩
    exact (execWith_uartByte_outOfRange_iff _ b st).mpr hpast

/-- Settles O33, by the store check of each operation that has one, and the case split over those that have none. -/
theorem storesFaultExactlyWhereTheyDoNotFit : Obligations.StoresFaultExactlyWhereTheyDoNotFit :=
  ⟨execWith_uartByte_outOfRange_iff, execWith_tick_outOfRange_iff, execWith_bcastMark_outOfRange_iff,
    fun _ _ _ _ => checkedStore_of_execWith_fault, exec_outOfRange_iff⟩

end Sys2Proof.Machine
end

section
/-! PROOFS. 10_state.md: the registers after power-on, the invariants of R26, the access matrix of R40, and the registers that
R27 says never show. -/

namespace Sys2Proof.Machine

open Sys2Proof

/-! ### Power-on (R28 to R38) -/

/-- Settles O1: the reset values of this hardware's configuration, and the draw of State.reset is the zero one (log 1). -/
theorem powerOnRegisters : Obligations.PowerOnRegisters :=
  ⟨fun _ => rfl, Draw.zero Config.lce, rfl, rfl⟩

/-! ### The completion of a payload, by register (44_uart_framer.md R95) -/

/-- A completion writes ROLE and FS, and PARSE can write the target and BT_DUE (R24, R86); all else stays. -/
theorem complete_eq (c : Config) (st : State) :
    st.complete c =
      { st with role := .coordinator, fs := .wait, tgt := (st.complete c).tgt, btDue := (st.complete c).btDue } := by
  obtain ⟨x, h⟩ | h := complete_cases c st <;> simp only [h] <;> rfl

@[simp] theorem State.complete_cur (c : Config) (st : State) : (State.complete c st).cur = st.cur := by
  rw [complete_eq]
@[simp] theorem State.complete_tLast (c : Config) (st : State) : (State.complete c st).tLast = st.tLast := by
  rw [complete_eq]
@[simp] theorem State.complete_frame (c : Config) (st : State) : (State.complete c st).frame = st.frame := by
  rw [complete_eq]
@[simp] theorem State.complete_role (c : Config) (st : State) : (State.complete c st).role = .coordinator := by
  rw [complete_eq]
@[simp] theorem State.complete_btStamp (c : Config) (st : State) : (State.complete c st).btStamp = st.btStamp := by
  rw [complete_eq]
@[simp] theorem State.complete_fs (c : Config) (st : State) : (State.complete c st).fs = .wait := by
  rw [complete_eq]
@[simp] theorem State.complete_plen (c : Config) (st : State) : (State.complete c st).plen = st.plen := by
  rw [complete_eq]
@[simp] theorem State.complete_pay (c : Config) (st : State) : (State.complete c st).pay = st.pay := by
  rw [complete_eq]
@[simp] theorem State.complete_sd (c : Config) (st : State) : (State.complete c st).sd = st.sd := by
  rw [complete_eq]
@[simp] theorem State.complete_sck (c : Config) (st : State) : (State.complete c st).sck = st.sck := by
  rw [complete_eq]
@[simp] theorem State.complete_trace (c : Config) (st : State) : (State.complete c st).trace = st.trace := by
  rw [complete_eq]
@[simp] theorem State.complete_statusOut (c : Config) (st : State) : (State.complete c st).statusOut = st.statusOut := by
  rw [complete_eq]
@[simp] theorem State.complete_input (c : Config) (st : State) : (State.complete c st).input = st.input := by
  rw [complete_eq]

/-! ### The invariants of R26, by register write -/

theorem stepToward_toNat_le_max (x t : Byte) : (stepToward x t).toNat ≤ max x.toNat t.toNat := by
  rw [stepToward_toNat]
  split
  · omega
  · split <;> omega

/-- A strip has an LED (R4), so an EMIT drives SD, and the level before it does not matter. -/
theorem lastLevel_emitWrites_replicate {n : Nat} (hn : 1 ≤ n) (x : Rgb) (l : Line) (d e : Bool) :
    lastLevel l d (emitWrites (List.replicate n x)) = lastLevel l e (emitWrites (List.replicate n x)) := by
  cases l with
  | sck => rw [lastLevel_sck_emitWrites, lastLevel_sck_emitWrites]
  | sd =>
    have hlast : (List.replicate n x).getLast? = some x := by simp [List.getLast?_replicate]; omega
    simp only [lastLevel_sd_emitWrites, hlast]

section
variable {c : Config} {st : State}

theorem Inv.setInput (h : Inv c st) (ws : List EventWord) : Inv c (st.setInput ws) := { h with }

theorem Inv.setTarget (h : Inv c st) (x : Hsv) : Inv c (st.setTarget c x) :=
  { h with tgtHue := (clampHue_toNat c x.h).trans_le (Nat.min_le_right _ _) }

theorem Inv.markSent (h : Inv c st) {now : Clock} (hn : now.toNat < 2 ^ c.clockW) : Inv c (st.markSent now) :=
  { h with btStampFits := hn }

theorem Inv.logStatus (h : Inv c st) (r : Status) : Inv c (st.logStatus r) := { h with }

theorem Inv.setTLast (h : Inv c st) {now : Clock} (hn : now.toNat < 2 ^ c.clockW) : Inv c (st.setTLast now) :=
  { h with tLastFits := hn }

/-- The stepped hue stays between two hues within the bound; the EMIT is one more whole EMIT of a uniform frame. -/
theorem Inv.animate (h : Inv c st) (hL : 1 ≤ c.stripLen) : Inv c (st.animate c) :=
  { h with
    curHue := (stepToward_toNat_le_max _ _).trans (Nat.max_le.mpr ⟨h.curHue, h.tgtHue⟩)
    frameLength := List.length_replicate
    frameUniform := fun _ => ⟨_, rfl⟩
    wholeEmits := by
      obtain ⟨xs, hxs⟩ := h.wholeEmits
      exact ⟨xs ++ [convert c (stepHsv st.cur st.tgt)], by simp [hxs]⟩
    sckLast := fun _ => by
      rw [State.animate_sck, State.animate_trace, lastLevel_append]
      exact lastLevel_emitWrites_replicate hL _ _ _ _
    sdLast := fun _ => by
      rw [State.animate_sd, State.animate_trace, lastLevel_append]
      exact lastLevel_emitWrites_replicate hL _ _ _ _ }

theorem Inv.setFs (h : Inv c st) {f : FramerState} (hf : f ≠ .buffer) : Inv c (st.setFs f) :=
  { h with plenBound := fun hb => absurd hb hf }

theorem Inv.opened (h : Inv c st) (hp : 1 ≤ c.payloadLen) : Inv c ((st.setFs .buffer).setPlen 0#3) :=
  { h with plenBound := fun _ => hp }

theorem Inv.collect (h : Inv c st) (b : Byte) (hf : st.fs = .buffer) (hp : st.plen.toNat < payloadLen)
    (hc : st.plen.toNat + 1 ≠ c.payloadLen) : Inv c (st.collect b) :=
  { h with
    plenBound := fun _ => by
      have hlt := h.plenBound hf
      rw [State.collect_plen, plen_succ hp]
      omega }

/-- Between the last byte's store and the return to WAIT, item 5 does not hold: the two are one operation. -/
theorem Inv.collect_complete (h : Inv c st) (b : Byte) : Inv c ((st.collect b).complete c) := by
  have hw : Inv c ((st.collect b).promote.setFs .wait) := { h with plenBound := fun hb => by cases hb }
  obtain ⟨x, e⟩ | e := complete_cases c (st.collect b) <;> rw [e]
  · exact hw.setTarget x
  · exact hw

/-- The part of admission that the invariants need beyond the LED and the reset colours (log 10). -/
theorem payload_and_t0_of_admitted (h : c.admitted = true) : 1 ≤ c.payloadLen ∧ c.t0 < 2 ^ c.clockW := by
  simp only [Config.admitted, Bool.and_eq_true, decide_eq_true_eq] at h
  tauto

/-- Each bound of the configuration passes to its register: cutting a value to a width never makes it larger. -/
theorem powerOn_inv {d : Draw} (hc : c.admitted = true) (hd : d.fits c = true) : Inv c (powerOn c d) := by
  obtain ⟨-, hcur, htgt⟩ := strip_and_resets_of_admitted hc
  obtain ⟨hcurH, -⟩ := (hsvNat_fits_iff c c.curReset).mp hcur
  obtain ⟨htgtH, -⟩ := (hsvNat_fits_iff c c.tgtReset).mp htgt
  obtain ⟨-, ht0⟩ := payload_and_t0_of_admitted hc
  simp only [Draw.fits, Bool.and_eq_true, decide_eq_true_eq] at hd
  obtain ⟨hframe, hstamp⟩ := hd
  exact
    { tgtHue := (Nat.mod_le _ _).trans htgtH
      curHue := (Nat.mod_le _ _).trans hcurH
      frameLength := hframe
      frameUniform := fun hne => absurd rfl hne
      plenBound := fun hb => by cases hb
      tLastFits := (Nat.mod_le _ _).trans_lt ht0
      btStampFits := hstamp
      wholeEmits := ⟨[], rfl⟩
      sckLast := fun hne => absurd rfl hne
      sdLast := fun hne => absurd rfl hne }

theorem Effect.keeps_inv {i : Instr} {t : State} (he : Effect c st i t) (hc : c.admitted = true) (h : Inv c st) :
    Inv c t := by
  obtain ⟨hL, -⟩ := strip_and_resets_of_admitted hc
  obtain ⟨hP, -⟩ := payload_and_t0_of_admitted hc
  cases he with
  | nothing => exact h
  | target _ x => exact h.setTarget x
  | mark now hn => exact h.markSent hn
  | status => exact h.logStatus _
  | converged now hn => exact h.setTLast hn
  | animated now hn => exact (h.setTLast hn).animate hL
  | scanned b f hf hn => exact h.setFs hn
  | opened => exact h.opened hP
  | collected b hf hp hl => exact h.collect b hf hp hl
  | completed b => exact h.collect_complete b

theorem stepWith_keeps_inv {t : State} (hc : c.admitted = true) (h : Inv c st) (hs : stepWith c st = .next t) : Inv c t := by
  obtain ⟨-, rfl⟩ | ⟨w, rest, i, -, -, he⟩ := stepWith_next_cases hs
  · exact h
  · exact (execWith_effect he).keeps_inv hc (h.setInput rest)

end

/-- Settles O46: TRACE is empty and FS is WAIT, and admission bounds the rest. -/
theorem invariantsHoldAfterPowerOn : Obligations.InvariantsHoldAfterPowerOn :=
  ⟨fun _ _ => powerOn_inv, powerOn_inv lce_admitted (by decide)⟩

/-- Settles O47, by the effect of the step's operation: each register write keeps the invariants. -/
theorem everyStepKeepsTheInvariants : Obligations.EveryStepKeepsTheInvariants :=
  ⟨fun s _ hi hs => stepWith_keeps_inv lce_admitted hi ((stepWith_lce s).trans hs),
    fun _ _ _ => stepWith_keeps_inv⟩

/-! ### Who writes what (R40), by effect -/

section
variable {c : Config} {i : Instr} {st t : State}

theorem Effect.anim_eq (he : Effect c st i t) (hi : ∀ now, i ≠ .tick now) :
    t.cur = st.cur ∧ t.tLast = st.tLast ∧ t.frame = st.frame ∧ t.sd = st.sd ∧ t.sck = st.sck ∧ t.trace = st.trace := by
  cases he with
  | converged now | animated now => exact absurd rfl (hi now)
  | completed => simp
  | nothing | target | mark | status | scanned | opened | collected => exact ⟨rfl, rfl, rfl, rfl, rfl, rfl⟩

theorem Effect.btStamp_eq (he : Effect c st i t) (hi : ∀ now, i ≠ .bcastMark now) : t.btStamp = st.btStamp := by
  cases he with
  | mark now => exact absurd rfl (hi now)
  | completed => simp
  | nothing | target | status | converged | animated | scanned | opened | collected => rfl

theorem Effect.framer_eq (he : Effect c st i t) (hi : ∀ b, i ≠ .uartByte b) :
    t.role = st.role ∧ t.fs = st.fs ∧ t.plen = st.plen ∧ t.pay = st.pay := by
  cases he with
  | scanned b | opened b | collected b | completed b => exact absurd rfl (hi b)
  | nothing | target | mark | status | converged | animated => exact ⟨rfl, rfl, rfl, rfl⟩

theorem Effect.statusOut_eq (he : Effect c st i t) (hi : i ≠ .readStatus) : t.statusOut = st.statusOut := by
  cases he with
  | status => exact absurd rfl hi
  | completed => simp
  | nothing | target | mark | converged | animated | scanned | opened | collected => rfl

theorem Effect.input_eq (he : Effect c st i t) : t.input = st.input := by
  cases he with
  | completed => simp
  | nothing | target | mark | status | converged | animated | scanned | opened | collected => rfl

/-- ROLE stays, or the last byte of a payload promotes the node (R16). -/
theorem Effect.role_cases (he : Effect c st i t) :
    t.role = st.role ∨
      ∃ b, i = .uartByte b ∧ st.fs = .buffer ∧ st.plen.toNat + 1 = c.payloadLen ∧ t.role = .coordinator := by
  cases he with
  | completed b hf hp hl => exact .inr ⟨b, rfl, hf, hl, State.complete_role _ _⟩
  | nothing | target | mark | status | converged | animated | scanned | opened | collected => exact .inl rfl

/-- TRACE stays, or a TICK appends the EMIT of the frame it wrote (R22, R85). -/
theorem Effect.trace_cases (he : Effect c st i t) :
    t.trace = st.trace ∨
      (∃ now, i = .tick now) ∧ t.trace = st.trace ++ emitWrites t.frame ∧ t.frame.length = c.stripLen := by
  cases he with
  | animated now => exact .inr ⟨⟨now, rfl⟩, rfl, List.length_replicate⟩
  | completed => simp
  | nothing | target | mark | status | converged | scanned | opened | collected => exact .inl rfl

end

/-- The operation is one that sets the target: the last byte of an `'S'` payload, an `'S'` buffer, a radio colour, or CMD_SET
(R40, columns of TGT). -/
def SetsTarget (i : Instr) (st t : State) : Prop :=
  (∃ b, i = .uartByte b ∧ t.fs = .wait ∧ st.fs = .buffer ∧ t.pay.b0 = 0x53#8) ∨
    (∃ buf, i = .usbCmd buf ∧ buf.b0 = 0x53#8) ∨ (∃ h s v, i = .radioSet h s v) ∨ ∃ a b c d e f, i = .cmdSet a b c d e f

theorem setsTarget_or_tgt_eq {i : Instr} {st t : State} (h : exec i st = .next t) :
    SetsTarget i st t ∨ t.tgt = st.tgt ∧ (t.btDue = st.btDue ∨ ∃ now, i = .bcastMark now) := by
  cases i with
  | uartByte b =>
    cases exec_effect h with
    | target _ _ hi => exact absurd rfl (hi b 0#32).1
    | completed _ hf =>
      by_cases hS : (st.collect b).pay.b0 = Config.lce.cmdSet
      · exact .inl (.inl ⟨b, rfl, State.complete_fs _ _, hf, by rwa [State.complete_pay]⟩)
      · rw [complete_ignore hS]
        exact .inr ⟨rfl, .inl rfl⟩
    | nothing | scanned | opened | collected => exact .inr ⟨rfl, .inl rfl⟩
  | usbCmd buf =>
    by_cases hS : buf.b0 = Config.lce.cmdSet
    · exact .inl (.inr (.inl ⟨buf, rfl, hS⟩))
    · rw [exec_usbCmd, parse_ignore hS] at h
      cases h
      exact .inr ⟨rfl, .inl rfl⟩
  | tick now =>
    cases exec_effect h with
    | target _ _ hi => exact absurd rfl (hi 0#8 now).2
    | nothing | converged | animated => exact .inr ⟨rfl, .inl rfl⟩
  | radioSet x y z => exact .inl (.inr (.inr (.inl ⟨x, y, z, rfl⟩)))
  | bcastMark now =>
    rw [exec_bcastMark] at h
    cases h
    exact .inr ⟨rfl, .inr ⟨now, rfl⟩⟩
  | cmdSet a b c d e f => exact .inl (.inr (.inr (.inr ⟨a, b, c, d, e, f, rfl⟩)))
  | readStatus | cmdIgnore => cases h; exact .inr ⟨rfl, .inl rfl⟩

/-- Settles O51: for each group of registers, the operations whose effect leaves it alone. -/
theorem registersChangeOnlyByTheirWriters : Obligations.RegistersChangeOnlyByTheirWriters := by
  intro i st t h
  have he := exec_effect h
  refine ⟨fun hne => ?_, fun hne => ?_, fun hne => ?_, fun hne => ?_, fun hne => ?_, fun hne => ?_, he.input_eq⟩
  · by_contra hi
    have := he.anim_eq (not_exists.mp hi)
    tauto
  · exact (setsTarget_or_tgt_eq h).resolve_right fun hk => hne hk.1
  · obtain (hu | hb | hr | hs) | ⟨-, hdue | hm⟩ := setsTarget_or_tgt_eq h
    · exact .inl hu
    · exact .inr (.inl hb)
    · exact .inr (.inr (.inl hr))
    · exact .inr (.inr (.inr (.inr hs)))
    · exact absurd hdue hne
    · exact .inr (.inr (.inr (.inl hm)))
  · by_contra hi
    exact hne (he.btStamp_eq (not_exists.mp hi))
  · by_contra hi
    have := he.framer_eq (not_exists.mp hi)
    tauto
  · by_contra hi
    exact hne (he.statusOut_eq hi)

/-- Settles O50: of all effects only a completed payload writes ROLE, and it makes the node coordinator. -/
theorem onlyACompletedPayloadPromotes : Obligations.OnlyACompletedPayloadPromotes := by
  intro i st t h
  constructor
  · intro hne
    obtain ⟨b, hi, hf, hl, hrole⟩ := (exec_effect h).role_cases.resolve_left hne
    exact ⟨b, hi, hf, BitVec.eq_of_toNat_eq (Nat.succ_injective hl), hrole⟩
  · rintro b rfl hf hp
    rw [exec_uartByte, uartByte_completes hf (by rw [hp]; decide) (by rw [hp]; decide)] at h
    cases h
    exact State.complete_role _ _

/-- Settles O2: an operation leaves ROLE alone or makes it coordinator, and taking the event's word does not touch it. -/
theorem roleStartsUncoordinatedAndIsNeverCleared : Obligations.RoleStartsUncoordinatedAndIsNeverCleared := by
  refine ⟨fun _ _ => rfl, fun s t hs hrole => ?_⟩
  obtain ⟨-, rfl⟩ | ⟨w, rest, i, -, -, he⟩ := step_next_cases hs
  · exact hrole
  · obtain hk | ⟨b, -, -, -, hco⟩ := (exec_effect he).role_cases
    · exact hk.trans hrole
    · exact hco

/-! ### TRACE (R22, R85) -/

theorem length_emitWrites (frame : List Rgb) : (emitWrites frame).length = 72 * frame.length + 1 := by
  simp [emitWrites, List.length_flatMap, Nat.mul_comm]

/-- Settles O52: the one effect that writes TRACE appends the EMIT of its frame, whose five entries make 361 writes. -/
theorem traceGrowsByWholeEmits : Obligations.TraceGrowsByWholeEmits := by
  intro i st t h hne
  obtain ⟨htick, htrace, hlen⟩ := (exec_effect h).trace_cases.resolve_left hne
  exact ⟨htick, htrace, by rw [htrace, List.length_append, length_emitWrites, hlen, lce_stripLen]⟩

/-! ### What never shows (R27), by register write -/

section
variable {a b : State}

theorem SameToOutputs.setTarget (h : SameToOutputs a b) (c : Config) (x : Hsv) :
    SameToOutputs (a.setTarget c x) (b.setTarget c x) := { h with tgt := rfl, btDue := rfl }

theorem SameToOutputs.parse (h : SameToOutputs a b) (c : Config) (buf : Bytes7) :
    SameToOutputs (a.parse c buf) (b.parse c buf) := by
  by_cases hS : buf.b0 = c.cmdSet
  · rw [parse_set hS, parse_set hS]
    exact h.setTarget c _
  · rwa [parse_ignore hS, parse_ignore hS]

theorem SameToOutputs.markSent (h : SameToOutputs a b) (now : Clock) :
    SameToOutputs (a.markSent now) (b.markSent now) := { h with btDue := rfl, btStamp := rfl }

theorem SameToOutputs.statusOf_eq (h : SameToOutputs a b) : statusOf a = statusOf b := by
  simp [statusOf, h.role, h.tgt, h.btDue, h.btStamp]

theorem SameToOutputs.logStatus (h : SameToOutputs a b) :
    SameToOutputs (a.logStatus (statusOf a)) (b.logStatus (statusOf b)) :=
  { h with statusOut := by simp [h.statusOut, h.statusOf_eq] }

theorem SameToOutputs.setTLast (h : SameToOutputs a b) (now : Clock) :
    SameToOutputs (a.setTLast now) (b.setTLast now) := { h with tLast := rfl }

/-- The EMIT is of a frame that the same TICK has just written, so the old one does not show. -/
theorem SameToOutputs.animate (h : SameToOutputs a b) (c : Config) : SameToOutputs (a.animate c) (b.animate c) :=
  { h with
    cur := by simp [h.cur, h.tgt]
    trace := by simp [h.cur, h.tgt, h.trace] }

theorem SameToOutputs.pastLimiter (h : SameToOutputs a b) (c : Config) (now : Clock) :
    SameToOutputs (a.pastLimiter c now) (b.pastLimiter c now) := by
  by_cases hc : a.cur = a.tgt
  · have hc' : b.cur = b.tgt := by rwa [← h.cur, ← h.tgt]
    rw [pastLimiter_converged hc, pastLimiter_converged hc']
    exact h.setTLast now
  · have hc' : b.cur ≠ b.tgt := by rwa [← h.cur, ← h.tgt]
    rw [pastLimiter_steps hc, pastLimiter_steps hc']
    exact (h.setTLast now).animate c

theorem SameToOutputs.setFs (h : SameToOutputs a b) {f : FramerState} (hf : f ≠ .buffer) :
    SameToOutputs (a.setFs f) (b.setFs f) :=
  { h with fs := rfl, plen := fun hb => absurd hb hf, pay := fun hb => absurd hb hf }

/-- Opening a payload sets PLEN, and no byte is collected yet. -/
theorem SameToOutputs.opened (h : SameToOutputs a b) :
    SameToOutputs ((a.setFs .buffer).setPlen 0#3) ((b.setFs .buffer).setPlen 0#3) :=
  { h with fs := rfl, plen := fun _ => rfl, pay := fun _ k hk => absurd hk (Nat.not_lt_zero k) }

/-- The byte goes to the same place in both, and one more byte is collected. -/
theorem SameToOutputs.collect (h : SameToOutputs a b) (x : Byte) (hf : a.fs = .buffer)
    (hp : a.plen.toNat < payloadLen) : SameToOutputs (a.collect x) (b.collect x) :=
  { h with
    plen := fun _ => congrArg (· + 1#3) (h.plen hf)
    pay := fun _ k hk => by
      rw [State.collect_plen, plen_succ hp] at hk
      have hk7 : k < 7 := by unfold payloadLen at hp; omega
      rw [State.collect_pay, State.collect_pay, ← h.plen hf, Bytes7.get_set _ _ _ _ hp hk7, Bytes7.get_set _ _ _ _ hp hk7]
      split
      · rfl
      · exact h.pay hf k (by omega) }

theorem SameToOutputs.promote (h : SameToOutputs a b) : SameToOutputs a.promote b.promote := { h with role := rfl }

/-- A payload that is collected whole is the same in both, and so is the command that PARSE takes from it. -/
theorem SameToOutputs.complete (h : SameToOutputs a b) (c : Config) (hf : a.fs = .buffer) (hp : a.plen.toNat = 7) :
    SameToOutputs (a.complete c) (b.complete c) := by
  have hpay : a.pay = b.pay := Bytes7.ext_get fun k hk => h.pay hf k (by omega)
  unfold State.complete
  rw [hpay]
  exact (h.promote.setFs (by simp)).parse c b.pay

/-! ### What never shows, by operation -/

theorem sameToOutputs_uartByte {t : State} (h : SameToOutputs a b) (x : Byte) (ht : uartByte Config.lce x a = .next t) :
    ∃ u, uartByte Config.lce x b = .next u ∧ SameToOutputs t u := by
  cases hf : a.fs with
  | wait =>
    rw [uartByte_wait hf] at ht
    cases ht
    refine ⟨_, uartByte_wait (h.fs.symm.trans hf), ?_⟩
    split
    · exact h.setFs (by simp)
    · exact h
  | sig1 =>
    rw [uartByte_sig1 hf] at ht
    cases ht
    refine ⟨_, uartByte_sig1 (h.fs.symm.trans hf), ?_⟩
    split <;> [skip; split] <;> exact h.setFs (by simp)
  | sig2 =>
    rw [uartByte_sig2 hf] at ht
    cases ht
    refine ⟨_, uartByte_sig2 (h.fs.symm.trans hf), ?_⟩
    split
    · exact h.opened
    · split <;> exact h.setFs (by simp)
  | buffer =>
    have hfb : b.fs = .buffer := h.fs.symm.trans hf
    have hplen := h.plen hf
    by_cases hp : a.plen.toNat < payloadLen
    · have hcol := h.collect x hf hp
      by_cases hl : a.plen.toNat + 1 = Config.lce.payloadLen
      · rw [uartByte_completes hf hp hl] at ht
        cases ht
        exact ⟨_, uartByte_completes hfb (hplen ▸ hp) (hplen ▸ hl), hcol.complete _ hf ((plen_succ hp).trans hl)⟩
      · rw [uartByte_collects hf hp hl] at ht
        cases ht
        exact ⟨_, uartByte_collects hfb (hplen ▸ hp) (hplen ▸ hl), hcol⟩
    · rw [uartByte_stops hf hp] at ht
      cases ht

theorem sameToOutputs_tick {t : State} (h : SameToOutputs a b) (now : Clock) (ht : exec (.tick now) a = .next t) :
    ∃ u, exec (.tick now) b = .next u ∧ SameToOutputs t u := by
  by_cases hl : (now - a.tLast).toNat < 4
  · rw [exec_tick_limited hl] at ht
    cases ht
    exact ⟨b, exec_tick_limited (h.tLast ▸ hl), h⟩
  · have hp := Nat.not_lt.mp hl
    rw [exec_tick_past hp] at ht
    cases ht
    exact ⟨_, exec_tick_past (h.tLast ▸ hp), h.pastLimiter _ now⟩

theorem sameToOutputs_exec {i : Instr} {t : State} (h : SameToOutputs a b) (ht : exec i a = .next t) :
    ∃ u, exec i b = .next u ∧ SameToOutputs t u := by
  cases i with
  | uartByte x => exact sameToOutputs_uartByte h x ht
  | usbCmd buf => cases ht; exact ⟨_, exec_usbCmd buf b, h.parse _ buf⟩
  | tick now => exact sameToOutputs_tick h now ht
  | radioSet x y z => cases ht; exact ⟨_, exec_radioSet x y z b, h.setTarget _ _⟩
  | bcastMark now =>
    rw [exec_bcastMark] at ht
    cases ht
    exact ⟨_, exec_bcastMark now b, h.markSent now⟩
  | readStatus => cases ht; exact ⟨_, exec_readStatus b, h.logStatus⟩
  | cmdSet a1 a2 a3 a4 a5 a6 => cases ht; exact ⟨_, exec_cmdSet a1 a2 a3 a4 a5 a6 b, h.setTarget _ _⟩
  | cmdIgnore buf => cases ht; exact ⟨_, exec_cmdIgnore buf b, h⟩

theorem sameToOutputs_runEvents {evs : List Instr} {t : State} (h : SameToOutputs a b) (ht : runEvents evs a = .next t) :
    ∃ u, runEvents evs b = .next u ∧ SameToOutputs t u := by
  induction evs generalizing a b with
  | nil => cases ht; exact ⟨b, rfl, h⟩
  | cons i is ih =>
    rw [runEvents_cons] at ht
    obtain ⟨a', ha, ht⟩ := andThen_eq_next.mp ht
    obtain ⟨b', hb, hab⟩ := sameToOutputs_exec h ha
    obtain ⟨u, hu, htu⟩ := ih hab ht
    exact ⟨u, by rw [runEvents_cons, hb, andThen_next, hu], htu⟩

/-- What the spec leaves unspecified at power-on is hidden, but for BT_STAMP (R33). -/
theorem sameToOutputs_powerOn (c : Config) {d e : Draw} (h : d.btStamp = e.btStamp) :
    SameToOutputs (powerOn c d) (powerOn c e) where
  cur := rfl
  tgt := rfl
  tLast := rfl
  role := rfl
  btDue := rfl
  btStamp := h
  fs := rfl
  plen := fun _ => rfl
  pay := fun hb => by cases hb
  trace := rfl
  statusOut := rfl
  input := rfl

end

/-- Settles O53, operation by operation: no register write lets a hidden register into a register that shows. -/
theorem hiddenRegistersNeverShow : Obligations.HiddenRegistersNeverShow :=
  fun _ _ _ _ => sameToOutputs_exec

/-- Settles O54: two power-on states of one BT_STAMP differ only in hidden registers, and every run keeps it so. -/
theorem unspecifiedResetValuesNeverShow : Obligations.UnspecifiedResetValuesNeverShow := by
  intro d e evs t hstamp ht
  obtain ⟨u, hu, h⟩ := sameToOutputs_runEvents (sameToOutputs_powerOn Config.lce hstamp) ht
  exact ⟨u, hu, h.trace, h.statusOut, h.role, h.cur, h.tgt, h.btDue, h.btStamp⟩

end Sys2Proof.Machine
end

section
/-! PROOFS. 20_memory.md: the packed colour and its order on the wire (R42), the event taken whole (R47, R49), and the
operation that may be repeated (R48). -/

namespace Sys2Proof.Machine

open Sys2Proof

/-! ### Packed colours on the wire (R42, 30_encoding.md R61) -/

/-- A channel that is a byte survives the packing as it stands. -/
theorem pack_bytes (r g b : Byte) : pack r.toNat g.toNat b.toNat = b ++ g ++ r := by
  simp [pack]

theorem toNat_append_eq_add {m k : Nat} (x : BitVec m) (y : BitVec k) :
    (x ++ y).toNat = x.toNat * 2 ^ k + y.toNat := by
  rw [BitVec.toNat_append, ← Nat.shiftLeft_add_eq_or_of_lt y.isLt, Nat.shiftLeft_eq]

/-- The low bits of an appended value are those of its low part. -/
theorem msbFirst_append_low {m k n : Nat} (x : BitVec m) (y : BitVec k) (h : n ≤ k) :
    msbFirst (x ++ y) n = msbFirst y n := by
  induction n with
  | zero => rfl
  | succ n ih => rw [msbFirst, msbFirst, BitVec.getLsbD_append, if_pos (Nat.lt_of_succ_le h), ih (Nat.le_of_succ_le h)]

/-- Most significant first, an appended value goes out high part first. -/
theorem msbFirst_append {m k : Nat} (x : BitVec m) (y : BitVec k) (n : Nat) :
    msbFirst (x ++ y) (k + n) = msbFirst x n ++ msbFirst y k := by
  induction n with
  | zero => exact msbFirst_append_low x y (Nat.le_refl k)
  | succ n ih =>
    have hbit : (x ++ y).getLsbD (k + n) = x.getLsbD n := by simp [BitVec.getLsbD_append]
    rw [← Nat.add_assoc, msbFirst, hbit, ih, msbFirst, List.cons_append]

/-- Settles O9: the packed colour is blue, green and red appended, and an appended value goes out high part first. -/
theorem packedColourGoesOutBlueGreenRed : Obligations.PackedColourGoesOutBlueGreenRed := by
  intro r g b
  rw [pack_bytes]
  constructor
  · rw [toNat_append_eq_add, toNat_append_eq_add]
    omega
  · calc wireBits (b ++ g ++ r)
      _ = msbFirst (b ++ g) 16 ++ msbFirst r 8 := msbFirst_append (b ++ g) r 16
      _ = msbFirst b 8 ++ msbFirst g 8 ++ msbFirst r 8 := by rw [msbFirst_append b g 8]

/-! ### Repeating a command (R48) -/

/-- SET_TARGET writes the target and BT_DUE from its operands alone. -/
theorem setTarget_setTarget (c : Config) (x : Hsv) (st : State) :
    (st.setTarget c x).setTarget c x = st.setTarget c x := rfl

/-- PARSE reads the buffer, not the state, to choose the command. -/
theorem parse_parse (c : Config) (buf : Bytes7) (st : State) : (st.parse c buf).parse c buf = st.parse c buf := by
  by_cases hS : buf.b0 = c.cmdSet
  · rw [parse_set hS, parse_set hS, setTarget_setTarget]
  · rw [parse_ignore hS, parse_ignore hS]

/-- Settles O27: USB_CMD is PARSE of the buffer, and PARSE twice is PARSE once. -/
theorem usbCmdIsIdempotent : Obligations.UsbCmdIsIdempotent := by
  intro buf st t ht
  rw [exec_usbCmd] at ht
  cases ht
  rw [exec_usbCmd, parse_parse]

/-! ### A step (R47, R49) -/

/-- Settles O42: the next word is taken and decoded, and what it decodes to is run. -/
theorem stepRunsTheDecodedEvent : Obligations.StepRunsTheDecodedEvent := by
  refine ⟨fun s w rest i hw hd => ?_, stepWith_lce⟩
  rw [step_cons hw, hd]
  rfl

end Sys2Proof.Machine
end

section
/-! PROOFS. 30_encoding.md: the event word and the command buffer, decoded and encoded (R52 to R56), the opcode table (R53),
hex digits (R57), the framed command (R59, R64), and the script line that sets a colour (R65). -/

namespace Sys2Proof.Machine

open Sys2Proof

/-! ### The fields of an event word (R52) -/

/-- A word is its tag, its must-be-zero bits and its operand bits, each in its place. -/
theorem eventWord_toNat (w : EventWord) {k m : Nat} (hkm : k + m = 61) :
    w.toNat = (eventTag w).toNat * 2 ^ 61 + (w.extractLsb' k m).toNat * 2 ^ k + (w.extractLsb' 0 k).toNat := by
  have hdiv : w.toNat / 2 ^ k / 2 ^ m = w.toNat / 2 ^ 61 := by rw [Nat.div_div_eq_div_mul, ← pow_add, hkm]
  rw [eventTag_toNat, extract_toNat, extract_toNat, pow_zero, Nat.div_one]
  calc w.toNat = w.toNat / 2 ^ k * 2 ^ k + w.toNat % 2 ^ k := (Nat.div_add_mod' _ _).symm
    _ = (w.toNat / 2 ^ k / 2 ^ m * 2 ^ m + w.toNat / 2 ^ k % 2 ^ m) * 2 ^ k + w.toNat % 2 ^ k := by
      rw [Nat.div_add_mod' (w.toNat / 2 ^ k)]
    _ = _ := by rw [hdiv, ← hkm]; ring

/-- The number with the tag `t` above, the operand bits `x` below and zeros between is the word with these fields. -/
theorem eventWord_fields_iff {k m : Nat} (hkm : k + m = 61) (w : EventWord) (t : Nat) (x : BitVec k) :
    w.toNat = t * 2 ^ 61 + x.toNat ↔
      (eventTag w).toNat = t ∧ (w.extractLsb' k m).toNat = 0 ∧ w.extractLsb' 0 k = x := by
  constructor
  · intro h
    have hx : x.toNat < 2 ^ k := x.isLt
    have hk : 2 ^ k ≤ 2 ^ 61 := Nat.pow_le_pow_right (by decide) (by omega)
    have htag : (eventTag w).toNat = t := by
      rw [eventTag_toNat]
      omega
    have hlow : (w.extractLsb' 0 k).toNat = x.toNat := by
      rw [extract_toNat, h, pow_zero, Nat.div_one, ← hkm, pow_add, Nat.mul_left_comm, Nat.mul_add_mod, Nat.mod_eq_of_lt hx]
    have hzero : (w.extractLsb' k m).toNat * 2 ^ k = 0 := by
      have := eventWord_toNat w hkm
      omega
    exact ⟨htag, (Nat.mul_eq_zero.mp hzero).resolve_right (by positivity), BitVec.eq_of_toNat_eq hlow⟩
  · rintro ⟨ht, hz, rfl⟩
    rw [eventWord_toNat w hkm, ht, hz, Nat.zero_mul, Nat.add_zero]

/-! ### The word of each event, by its fields (R52) -/

section
variable {w : EventWord}

theorem event_inj_toNat {v : EventWord} : Code.event v = .event w ↔ w.toNat = v.toNat := by
  rw [Code.event.injEq, ← BitVec.toNat_inj, eq_comm]

theorem encode_uartByte_iff {b : Byte} :
    encode (.uartByte b) = .event w ↔
      (eventTag w).toNat = 0 ∧ (w.extractLsb' 8 53).toNat = 0 ∧ w.extractLsb' 0 8 = b := by
  rw [← eventWord_fields_iff rfl, encode, event_inj_toNat, append_toNat, append_toNat]
  rfl

theorem encode_usbCmd_iff {buf : Bytes7} :
    encode (.usbCmd buf) = .event w ↔
      (eventTag w).toNat = 1 ∧ (w.extractLsb' 56 5).toNat = 0 ∧ Bytes7.ofBits (w.extractLsb' 0 56) = buf := by
  have hbuf : Bytes7.ofBits (w.extractLsb' 0 56) = buf ↔ w.extractLsb' 0 56 = buf.toBits :=
    ⟨fun h => by rw [← h, toBits_ofBits], fun h => by rw [h, ofBits_toBits]⟩
  rw [hbuf, ← eventWord_fields_iff rfl, encode, event_inj_toNat, usbCmdWord, append_toNat, append_toNat]
  rfl

theorem encode_tick_iff {now : Clock} :
    encode (.tick now) = .event w ↔
      (eventTag w).toNat = 2 ∧ (w.extractLsb' 32 29).toNat = 0 ∧ w.extractLsb' 0 32 = now := by
  rw [← eventWord_fields_iff rfl, encode, event_inj_toNat, append_toNat, append_toNat]
  rfl

theorem encode_radioSet_iff {h s v : Byte} :
    encode (.radioSet h s v) = .event w ↔
      (eventTag w).toNat = 3 ∧ (w.extractLsb' 24 37).toNat = 0 ∧
        w.extractLsb' 0 8 = h ∧ w.extractLsb' 8 8 = s ∧ w.extractLsb' 16 8 = v := by
  have hhsv : (w.extractLsb' 0 8 = h ∧ w.extractLsb' 8 8 = s ∧ w.extractLsb' 16 8 = v) ↔
      w.extractLsb' 0 24 = v ++ s ++ h := by
    simp only [← BitVec.toNat_inj, append_toNat, extract_toNat]
    omega
  rw [hhsv, ← eventWord_fields_iff rfl, encode, event_inj_toNat]
  simp only [append_toNat, BitVec.toNat_ofNat]
  omega

theorem encode_bcastMark_iff {now : Clock} :
    encode (.bcastMark now) = .event w ↔
      (eventTag w).toNat = 4 ∧ (w.extractLsb' 32 29).toNat = 0 ∧ w.extractLsb' 0 32 = now := by
  rw [← eventWord_fields_iff rfl, encode, event_inj_toNat, append_toNat, append_toNat]
  rfl

theorem encode_readStatus_iff :
    encode .readStatus = .event w ↔ (eventTag w).toNat = 5 ∧ (w.extractLsb' 0 61).toNat = 0 := by
  have hfields := eventWord_fields_iff (k := 0) (m := 61) rfl w 5 0#0
  rw [and_iff_left (BitVec.of_length_zero)] at hfields
  rw [← hfields, encode, event_inj_toNat, append_toNat]
  rfl

end

/-! ### Decoding and encoding are inverse (R52, R53, R56) -/

theorem decodeEvent_of_encode {i : Instr} {w : EventWord} (h : encode i = .event w) : decodeEvent w = .instr i := by
  rw [decodeEvent]
  cases i with
  | uartByte b =>
    obtain ⟨ht, hz, rfl⟩ := encode_uartByte_iff.mp h
    rw [ht]
    exact requireZero_zero hz
  | usbCmd buf =>
    obtain ⟨ht, hz, rfl⟩ := encode_usbCmd_iff.mp h
    rw [ht]
    exact requireZero_zero hz
  | tick now =>
    obtain ⟨ht, hz, rfl⟩ := encode_tick_iff.mp h
    rw [ht]
    exact requireZero_zero hz
  | radioSet x y z =>
    obtain ⟨ht, hz, rfl, rfl, rfl⟩ := encode_radioSet_iff.mp h
    rw [ht]
    exact requireZero_zero hz
  | bcastMark now =>
    obtain ⟨ht, hz, rfl⟩ := encode_bcastMark_iff.mp h
    rw [ht]
    exact requireZero_zero hz
  | readStatus =>
    obtain ⟨ht, hz⟩ := encode_readStatus_iff.mp h
    rw [ht]
    exact requireZero_zero hz
  | cmdSet | cmdIgnore => cases h

theorem encode_of_decodeTagged {w : EventWord} {i : Instr} :
    ∀ {t : Nat}, (eventTag w).toNat = t → decodeTagged t w = .instr i → encode i = .event w
  | 0, ht, h => by
    obtain ⟨hz, rfl⟩ := requireZero_eq_instr.mp h
    exact encode_uartByte_iff.mpr ⟨ht, hz, rfl⟩
  | 1, ht, h => by
    obtain ⟨hz, rfl⟩ := requireZero_eq_instr.mp h
    exact encode_usbCmd_iff.mpr ⟨ht, hz, rfl⟩
  | 2, ht, h => by
    obtain ⟨hz, rfl⟩ := requireZero_eq_instr.mp h
    exact encode_tick_iff.mpr ⟨ht, hz, rfl⟩
  | 3, ht, h => by
    obtain ⟨hz, rfl⟩ := requireZero_eq_instr.mp h
    exact encode_radioSet_iff.mpr ⟨ht, hz, rfl, rfl, rfl⟩
  | 4, ht, h => by
    obtain ⟨hz, rfl⟩ := requireZero_eq_instr.mp h
    exact encode_bcastMark_iff.mpr ⟨ht, hz, rfl⟩
  | 5, ht, h => by
    obtain ⟨hz, rfl⟩ := requireZero_eq_instr.mp h
    exact encode_readStatus_iff.mpr ⟨ht, hz⟩
  | _ + 6, _, h => by cases h

/-- A word decodes to an event exactly when it is the event's word. -/
theorem decodeEvent_eq_instr_iff {w : EventWord} {i : Instr} : decodeEvent w = .instr i ↔ encode i = .event w :=
  ⟨encode_of_decodeTagged rfl, decodeEvent_of_encode⟩

theorem wellFormed_of_encode_event {i : Instr} {w : EventWord} (h : encode i = .event w) : i.wellFormed = true := by
  cases i with
  | cmdIgnore => cases h
  | uartByte | usbCmd | tick | radioSet | bcastMark | readStatus | cmdSet => rfl

/-- A buffer selects a command exactly when it is the command's buffer and the command is well formed. -/
theorem decodeCommand_eq_iff {buf : Bytes7} {i : Instr} :
    decodeCommand buf = i ↔ encode i = .command buf ∧ i.wellFormed = true := by
  constructor
  · rintro rfl
    by_cases hS : buf.b0 = Config.lce.cmdSet
    · rw [decodeCommand_set hS, encode, ← hS]
      exact ⟨rfl, rfl⟩
    · rw [decodeCommand_ignore hS]
      exact ⟨rfl, bne_iff_ne.mpr hS⟩
  · rintro ⟨h, hwf⟩
    cases i with
    | cmdSet =>
      cases h
      exact decodeCommand_set rfl
    | cmdIgnore =>
      cases h
      exact decodeCommand_ignore (bne_iff_ne.mp hwf)
    | uartByte | usbCmd | tick | radioSet | bcastMark | readStatus => cases h

/-- Decoding and encoding are inverse on the well-formed operations. -/
theorem decode_eq_instr_iff {c : Code} {i : Instr} :
    decode c = .instr i ↔ encode i = c ∧ i.wellFormed = true := by
  cases c with
  | event w =>
    rw [decode, decodeEvent_eq_instr_iff]
    exact ⟨fun h => ⟨h, wellFormed_of_encode_event h⟩, And.left⟩
  | command buf => rw [decode, Decoded.instr.injEq, decodeCommand_eq_iff]

/-- Settles O38, by the fields of each event's word and the letter of each command's buffer. -/
theorem decodeOfEncode : Obligations.DecodeOfEncode :=
  fun _ hwf => decode_eq_instr_iff.mpr ⟨rfl, hwf⟩

/-- Settles O39, by the tag of the word, whose fields the event's word has, and the letter of the buffer. -/
theorem encodeOfDecode : Obligations.EncodeOfDecode :=
  fun _ _ => decode_eq_instr_iff.mp

/-- The command of a buffer is what USB_CMD of the buffer runs (R64, R86). -/
theorem exec_usbCmd_eq_exec_decodeCommand (buf : Bytes7) (st : State) :
    exec (.usbCmd buf) st = exec (decodeCommand buf) st := by rw [exec_usbCmd, exec_decodeCommand]

/-- Settles O23: the letter is the one byte that the command decoder compares. -/
theorem onlyTheLetterSelectsTheCommand : Obligations.OnlyTheLetterSelectsTheCommand :=
  fun _ => ⟨decodeCommand_set, decodeCommand_ignore⟩

/-- Settles O41, by running the decoder on each word. -/
theorem vectorWordsDecode : Obligations.VectorWordsDecode := by
  unfold Obligations.VectorWordsDecode
  decide

/-! ### The opcode table (R53) -/

theorem encodesInItsRow (i : Instr) : Laws.EncodesInItsRow.Statement i := by
  cases i with
  | uartByte b => exact Laws.EncodesInItsRow.uartByte b
  | usbCmd buf => exact Laws.EncodesInItsRow.usbCmd buf
  | tick now => exact Laws.EncodesInItsRow.tick now
  | radioSet h s v => exact Laws.EncodesInItsRow.radioSet h s v
  | bcastMark now => exact Laws.EncodesInItsRow.bcastMark now
  | readStatus => exact Laws.EncodesInItsRow.readStatus
  | cmdSet a b c d e f => exact Laws.EncodesInItsRow.cmdSet a b c d e f
  | cmdIgnore buf => exact Laws.EncodesInItsRow.cmdIgnore buf

theorem exists_row_of_decodeEvent {w : EventWord} {i : Instr} (h : decodeEvent w = .instr i) :
    ∃ r ∈ eventTable, r.mnemonic = i.mnemonic ∧ r.hits w = true := by
  have henc := decodeEvent_eq_instr_iff.mp h
  have hrow := encodesInItsRow i (wellFormed_of_encode_event henc)
  rw [henc] at hrow
  exact hrow.2

/-- A mask that keeps the bits above the `k` low ones leaves those `k` free. -/
theorem eq_append_of_masked {n k : Nat} {w : BitVec (n + k)} (hi : BitVec n)
    (h : w &&& (BitVec.allOnes n ++ 0#k) = hi ++ 0#k) : w = hi ++ w.extractLsb' 0 k := by
  ext j hj
  have hbit := congrArg (BitVec.getLsbD · j) h
  simp only [BitVec.getLsbD_and, BitVec.getLsbD_append] at hbit
  rw [BitVec.getElem_append]
  by_cases hk : j < k
  · simp [hk, BitVec.getLsbD_eq_getElem hj]
  · have hjn : j - k < n := by omega
    simp_all

/-- A word of a row is the word of an event of that row: its free bits are the event's operands. -/
theorem exists_encode_of_hits {r : TableRow} (hr : r ∈ eventTable) {w : EventWord} (h : r.hits w = true) :
    ∃ i, encode i = .event w ∧ i.mnemonic = r.mnemonic := by
  have hmask := beq_iff_eq.mp h
  simp only [eventTable, List.mem_cons, List.not_mem_nil, or_false] at hr
  obtain rfl | rfl | rfl | rfl | rfl | rfl := hr
  · have hw := eq_append_of_masked (k := 8) (0#3 ++ 0#53 : BitVec 56) hmask
    exact ⟨.uartByte _, congrArg Code.event hw.symm, rfl⟩
  · have hw := eq_append_of_masked (k := 56) (1#3 ++ 0#5 : BitVec 8) hmask
    refine ⟨.usbCmd (Bytes7.ofBits (w.extractLsb' 0 56)), ?_, rfl⟩
    rw [encode, usbCmdWord, toBits_ofBits]
    exact congrArg Code.event hw.symm
  · have hw := eq_append_of_masked (k := 32) (2#3 ++ 0#29 : BitVec 32) hmask
    exact ⟨.tick _, congrArg Code.event hw.symm, rfl⟩
  · have hw := eq_append_of_masked (k := 24) (3#3 ++ 0#37 : BitVec 40) hmask
    have hnum : w.toNat = 3 * 2 ^ 61 + (w.extractLsb' 0 24).toNat :=
      (congrArg BitVec.toNat hw).trans (by rw [append_toNat, append_toNat]; rfl)
    obtain ⟨ht, hz, -⟩ := (eventWord_fields_iff (k := 24) (m := 37) rfl w 3 _).mp hnum
    exact ⟨.radioSet _ _ _, encode_radioSet_iff.mpr ⟨ht, hz, rfl, rfl, rfl⟩, rfl⟩
  · have hw := eq_append_of_masked (k := 32) (4#3 ++ 0#29 : BitVec 32) hmask
    exact ⟨.bcastMark _, congrArg Code.event hw.symm, rfl⟩
  · have hw := BitVec.and_allOnes.symm.trans hmask
    exact ⟨.readStatus, congrArg Code.event hw.symm, rfl⟩

theorem eventTable_mnemonic_inj :
    ∀ r ∈ eventTable, ∀ r' ∈ eventTable, r.mnemonic = r'.mnemonic → r = r' := by decide

theorem hits_iff_decodeEvent {r : TableRow} (hr : r ∈ eventTable) (w : EventWord) :
    r.hits w = true ↔ ∃ i, decodeEvent w = .instr i ∧ i.mnemonic = r.mnemonic := by
  constructor
  · intro h
    obtain ⟨i, henc, hm⟩ := exists_encode_of_hits hr h
    exact ⟨i, decodeEvent_eq_instr_iff.mpr henc, hm⟩
  · rintro ⟨i, hd, hm⟩
    obtain ⟨r', hr', hm', hits⟩ := exists_row_of_decodeEvent hd
    rwa [eventTable_mnemonic_inj r hr r' hr' (hm.symm.trans hm'.symm)]

theorem no_hits_iff_decodeEvent (w : EventWord) :
    (∀ r ∈ eventTable, r.hits w = false) ↔ ∃ e, decodeEvent w = .invalid e := by
  constructor
  · intro hno
    cases hd : decodeEvent w with
    | instr i =>
      obtain ⟨r, hr, -, hits⟩ := exists_row_of_decodeEvent hd
      rw [hno r hr] at hits
      cases hits
    | invalid e => exact ⟨e, rfl⟩
  · rintro ⟨e, he⟩ r hr
    rw [Bool.eq_false_iff]
    intro hits
    obtain ⟨i, hd, -⟩ := (hits_iff_decodeEvent hr w).mp hits
    rw [he] at hd
    cases hd

/-- Settles O40: a row's words are the words of its events, and a word that decodes is the word of an event. -/
theorem decoderAgreesWithTheOpcodeTable : Obligations.DecoderAgreesWithTheOpcodeTable :=
  ⟨fun _ hr w => hits_iff_decodeEvent hr w, no_hits_iff_decodeEvent⟩

/-! ### A step on a presented word (R53, R64) -/

/-- A tag of 6 or 7 has no event, and the six events refuse a word only for a must-be-zero bit. -/
theorem refuseWord_of_decodeTagged {w : EventWord} {e : DecodeError} :
    ∀ {t : Nat}, decodeTagged t w = .invalid e → refuseWord e = if 6 ≤ t then .reservedTag else .mustBeZero
  | 0, h | 1, h | 2, h | 3, h | 4, h | 5, h => by
    rw [requireZero_eq_invalid h]
    rfl
  | t + 6, h => by
    cases h
    exact (if_pos (Nat.le_add_left 6 t)).symm

/-- Settles O43: a word of no row does not decode, and the step refuses it by the reason. -/
theorem stepRefusesInvalidWords : Obligations.StepRefusesInvalidWords := by
  intro s w rest hw hno
  obtain ⟨e, he⟩ := (no_hits_iff_decodeEvent w).mp hno
  rw [step_cons hw, he, runDecoded, refuseWord_of_decodeTagged he]

theorem decode_of_decodeTableWord {nbits w : Nat} {i : Instr} (h : decodeTableWord nbits w = some i) :
    ∃ c, tableCode nbits w = some c ∧ decode c = .instr i := by
  obtain ⟨c, hc, hi⟩ := Option.bind_eq_some_iff.mp h
  cases hd : decode c with
  | instr j =>
    rw [hd] at hi
    cases hi
    exact ⟨c, hc, hd⟩
  | invalid e =>
    rw [hd] at hi
    cases hi

/-- The word that presents a code runs what the code decodes to; a command buffer comes as its USB_CMD (R64). -/
theorem runDecoded_eventWordOf {c : Code} {i : Instr} (h : decode c = .instr i) (s : State) :
    runDecoded (decodeEvent (eventWordOf c)) s = exec i s := by
  cases c with
  | event w =>
    have hd : decodeEvent w = .instr i := h
    rw [eventWordOf, hd, runDecoded]
  | command buf =>
    cases h
    have hd : decodeEvent (usbCmdWord buf) = .instr (.usbCmd buf) := decodeEvent_of_encode rfl
    rw [eventWordOf, hd, runDecoded, exec_usbCmd_eq_exec_decodeCommand]

/-- Settles O45: the word is presented in front of the others, and the step takes it and runs what it decodes to. -/
theorem presentedWordIsRun : Obligations.PresentedWordIsRun := by
  intro s nbits w i h
  obtain ⟨c, hc, hd⟩ := decode_of_decodeTableWord h
  have hpresent : s.withFetchWord nbits w = s.setInput (eventWordOf c :: s.input) := by rw [State.withFetchWord, hc]
  rw [hpresent, step_cons (rest := s.input) rfl, runDecoded_eventWordOf hd]
  rfl

/-! ### Hex digits (R57, R65) -/

/-- Settles O22, range by range: the largest digit is 15, so no digit's value is cut at 4 bits. -/
theorem hexDigitsDecodeLeniently : Obligations.HexDigitsDecodeLeniently := by
  intro c
  refine ⟨fun h1 h2 => ?_, fun h1 h2 => ?_, fun h1 h2 => ?_, fun h1 h2 h3 => ?_⟩
  · rw [hexd, if_pos ⟨h1, h2⟩, BitVec.toNat_ofNat]
    omega
  · rw [hexd, if_neg (by omega), if_pos ⟨h1, h2⟩, BitVec.toNat_ofNat]
    omega
  · rw [hexd, if_neg (by omega), if_neg (by omega), if_pos ⟨h1, h2⟩, BitVec.toNat_ofNat]
    omega
  · rw [hexd, if_neg h1, if_neg h2, if_neg h3]

theorem hexd_hexChar (x : BitVec 4) : hexd (hexChar x) = x := by
  revert x
  decide

theorem hexPair_hexHi_hexLo (x : Byte) : hexPair (hexHi x) (hexLo x) = x := by
  apply BitVec.eq_of_toNat_eq
  rw [hexPair_toNat, hexHi, hexLo, hexd_hexChar, hexd_hexChar, extract_toNat, extract_toNat]
  have := x.isLt
  omega

/-- The operands that CMD_SET reads from the buffer of `set H S V` are the bytes written there (R58, R65). -/
theorem cmdSetOperands_setBuffer (c : Config) (x : Hsv) :
    cmdSetOperands (setBuffer c x).b1 (setBuffer c x).b2 (setBuffer c x).b3 (setBuffer c x).b4 (setBuffer c x).b5
      (setBuffer c x).b6 = x := by
  simp only [setBuffer, cmdSetOperands, hexPair_hexHi_hexLo]

theorem clampHue_of_le {c : Config} {h : Byte} (hle : h.toNat ≤ c.hueMax) : clampHue c h = h :=
  BitVec.eq_of_toNat_eq ((clampHue_toNat c h).trans (Nat.min_eq_left hle))

/-- Settles O60: the line is one USB_CMD, whose hex digits read back as the bytes they write, and no hue to clamp. -/
theorem scriptSetLineSetsThatTarget : Obligations.ScriptSetLineSetsThatTarget := by
  intro h s v st hle
  calc runScript Config.lce [.set h s v] st
    _ = .next (st.parse Config.lce (setBuffer Config.lce ⟨h, s, v⟩)) := rfl
    _ = .next (st.setTarget Config.lce ⟨h, s, v⟩) := by rw [parse_set rfl, cmdSetOperands_setBuffer]
    _ = .next { st with tgt := ⟨h, s, v⟩, btDue := true } := by
      rw [State.setTarget, clampHue_of_le hle]
      rfl

/-! ### The framed command (R59, R64, 44_uart_framer.md R95, R98) -/

/-- Outside a payload the first signature byte starts a signature, a broken one included (R92 to R94). -/
theorem exec_uartByte_sigB0 {st : State} (hf : st.fs ≠ .buffer) : exec (.uartByte 0x57#8) st = .next (st.setFs .sig1) := by
  rw [exec_uartByte]
  cases h : st.fs with
  | wait => exact uartByte_wait h
  | sig1 => exact uartByte_sig1 h
  | sig2 => exact uartByte_sig2 h
  | buffer => exact absurd h hf

/-- The three signature bytes open a payload. -/
theorem runEvents_signature {st : State} (hf : st.fs ≠ .buffer) :
    runEvents [.uartByte 0x57#8, .uartByte 0x78#8, .uartByte 0x7C#8] st = .next ((st.setFs .buffer).setPlen 0#3) := by
  rw [runEvents_cons, exec_uartByte_sigB0 hf, andThen_next]
  rw [runEvents_cons, exec_uartByte, uartByte_sig1 rfl, andThen_next]
  rw [runEvents_cons, exec_uartByte, uartByte_sig2 rfl, andThen_next]
  rfl

/-- Bytes that do not fill the payload are collected one after the other. -/
theorem runEvents_collects {bs : List Byte} {st : State} (hf : st.fs = .buffer) (hp : st.plen.toNat + bs.length < 7) :
    runEvents (bs.map Instr.uartByte) st = .next (bs.foldl (fun u b => u.collect b) st) := by
  induction bs generalizing st with
  | nil => rfl
  | cons b bs ih =>
    rw [List.length_cons] at hp
    have hlt : st.plen.toNat < payloadLen := by unfold payloadLen; omega
    have hne : st.plen.toNat + 1 ≠ Config.lce.payloadLen := by rw [lce_payloadLen]; omega
    rw [List.map_cons, runEvents_cons, exec_uartByte, uartByte_collects hf hlt hne, andThen_next, List.foldl_cons]
    exact ih hf (by rw [State.collect_plen, plen_succ hlt]; omega)

/-- The seven payload bytes: six are collected, and the seventh completes the payload that they make. -/
theorem runEvents_payload {st : State} (hf : st.fs = .buffer) (hp : st.plen = 0#3) (buf : Bytes7) :
    runEvents ([buf.b0, buf.b1, buf.b2, buf.b3, buf.b4, buf.b5].map Instr.uartByte ++ [.uartByte buf.b6]) st =
      .next ({ st with plen := 7#3, pay := buf }.complete Config.lce) := by
  have hsix : [buf.b0, buf.b1, buf.b2, buf.b3, buf.b4, buf.b5].foldl (fun u b => u.collect b) st =
      { st with plen := 6#3, pay := { buf with b6 := st.pay.b6 } } := by
    simp [State.collect, State.setPay, State.setPlen, Bytes7.set, hp]
  have hseventh : exec (.uartByte buf.b6) { st with plen := 6#3, pay := { buf with b6 := st.pay.b6 } } =
      .next ({ st with plen := 7#3, pay := buf }.complete Config.lce) :=
    uartByte_completes (c := Config.lce) hf (by decide : (6#3).toNat < payloadLen) rfl
  rw [runEvents_append, runEvents_collects hf (by rw [hp]; exact Nat.lt_succ_self 6), hsix, andThen_next, runEvents_cons,
    hseventh]
  rfl

/-- Settles O34: the signature opens a payload, and the seven bytes complete it with the PARSE that USB_CMD runs. -/
theorem framedCommandIsTheDirectOnePlusPromotion : Obligations.FramedCommandIsTheDirectOnePlusPromotion := by
  intro buf st hf
  refine ⟨({ st with fs := .buffer, plen := 7#3, pay := buf } : State).complete Config.lce, ?_, rfl⟩
  have hrun := runEvents_append [.uartByte 0x57#8, .uartByte 0x78#8, .uartByte 0x7C#8]
    ([buf.b0, buf.b1, buf.b2, buf.b3, buf.b4, buf.b5].map Instr.uartByte ++ [.uartByte buf.b6]) st
  rw [runEvents_signature hf, andThen_next, runEvents_payload rfl rfl] at hrun
  exact hrun

end Sys2Proof.Machine
end

section
/-! PROOFS. 40_color_conversion.md: the two checks of HSV2RGB (R66, R70), its levels (R67), table T (R68), and how far a channel
can move between neighbouring hues (R69). -/

namespace Sys2Proof.Machine

open Sys2Proof

/-! ### The checks and the sextant (R66, R70) -/

/-- Settles O4: the two branches of HSV2RGB, in their order. -/
theorem conversionChecksSaturationAndValueFirst : Obligations.ConversionChecksSaturationAndValueFirst := by
  intro h s v
  constructor
  · intro hbad
    exact if_pos hbad
  · intro hs hs' hv hv' hh
    have hok : ¬ (s < 0 ∨ s > 255 ∨ v < 0 ∨ v > 255) := by omega
    exact (if_neg hok).trans (if_pos hh)

/-- A hue in range is its sextant and the offset in it. -/
theorem hsv2rgb_of_sextant {i f : Nat} {s v : Int} (hi : i < 6) (hf : f < 40) (hs : 0 ≤ s) (hs' : s ≤ 255) (hv : 0 ≤ v)
    (hv' : v ≤ 255) :
    hsv2rgb Config.lce (40 * i + f : Nat) s v =
      packRow (hsvRow Config.lce i) v (levelN Config.lce s v (mirrored Config.lce i f)) (levelM Config.lce s v) := by
  have hdiv : ((40 * i + f : Nat) : Int) / (Config.lce.sextant : Nat) = i := by rw [lce_sextant]; omega
  have hmod : ((40 * i + f : Nat) : Int) % (Config.lce.sextant : Nat) = f := by rw [lce_sextant]; omega
  unfold hsv2rgb
  rw [if_neg (by rw [lce_svMax]; omega), if_neg (by rw [lce_hueMax]; omega), hdiv, hmod, Int.toNat_natCast]

theorem mirrored_of_even {i : Nat} (h : i % 2 = 0) (f : Int) : mirrored Config.lce i f = f :=
  if_neg (by omega)

theorem mirrored_of_odd {i : Nat} (h : i % 2 = 1) (f : Int) : mirrored Config.lce i f = 40 - f :=
  if_pos (by omega)

/-! ### The levels (R67) -/

/-- `(v*(255-q))/256`, the form that all three levels have: `v` itself at `q = -1`, `n` at `q = (s*f)/40` and `m` at `q = s`. -/
def shade (v q : Int) : Int := v * (255 - q) / 256

theorem shade_neg_one (v : Int) : shade v (-1) = v := Int.mul_ediv_cancel v (by decide)

theorem levelM_eq_shade (s v : Int) : levelM Config.lce s v = shade v s := rfl

theorem levelN_eq_shade (s v f : Int) : levelN Config.lce s v f = shade v (s * f / 40) := rfl

theorem shade_antitone {v q q' : Int} (hv : 0 ≤ v) (h : q ≤ q') : shade v q' ≤ shade v q :=
  Int.ediv_le_ediv (by decide) (Int.mul_le_mul_of_nonneg_left (by omega) hv)

/-- A level falls by at most one for each unit of `q`. -/
theorem shade_le_shade_add {v q q' : Int} (hv' : v ≤ 255) (h : q ≤ q') : shade v q ≤ shade v q' + (q' - q) := by
  have hstep : v * (q' - q) ≤ 256 * (q' - q) := Int.mul_le_mul_of_nonneg_right (by omega) (by omega)
  calc v * (255 - q) / 256
    _ ≤ (v * (255 - q') + (q' - q) * 256) / 256 := Int.ediv_le_ediv (by decide) (by linarith)
    _ = v * (255 - q') / 256 + (q' - q) := Int.add_mul_ediv_right _ _ (by decide)

theorem shade_nonneg {v q : Int} (hv : 0 ≤ v) (hq : q ≤ 255) : 0 ≤ shade v q :=
  Int.ediv_nonneg (Int.mul_nonneg hv (by omega)) (by decide)

theorem shade_le_value {v q : Int} (hv : 0 ≤ v) (hq : -1 ≤ q) : shade v q ≤ v :=
  (shade_antitone hv hq).trans_eq (shade_neg_one v)

theorem shade_le_254 {v q : Int} (hv : 0 ≤ v) (hv' : v ≤ 255) (hq : 0 ≤ q) : shade v q ≤ 254 :=
  (shade_antitone hv hq).trans (by unfold shade; omega)

theorem depth_nonneg {s f : Int} (hs : 0 ≤ s) (hf : 0 ≤ f) : 0 ≤ s * f / 40 :=
  Int.ediv_nonneg (Int.mul_nonneg hs hf) (by decide)

theorem depth_le {s f : Int} (hs : 0 ≤ s) (hf : f ≤ 40) : s * f / 40 ≤ s :=
  (Int.ediv_le_ediv (by decide) (Int.mul_le_mul_of_nonneg_left hf hs)).trans_eq (Int.mul_ediv_cancel s (by decide))

/-- Settles O6: the levels are one function of `q`, which falls from `v` at -1 through 254 at 0, and `0 ≤ (s*f)/40 ≤ s`. -/
theorem conversionLevelsAreOrdered : Obligations.ConversionLevelsAreOrdered := by
  intro s v f hs hs' hv hv' hf hf'
  rw [levelM_eq_shade, levelN_eq_shade]
  have h0 := depth_nonneg hs hf
  exact ⟨shade_nonneg hv hs', shade_antitone hv (depth_le hs hf'), shade_le_value hv (by omega), shade_le_254 hv hv' h0⟩

/-! ### Table T (R68) -/

theorem toNat_ofInt8_natCast {k : Nat} (h : k < 256) : (BitVec.ofInt 8 (k : Int)).toNat = k := by
  exact_mod_cast ofInt8_toNat (Int.natCast_nonneg k) (by omega)

/-- The channels of each row, for levels that fit a byte. -/
theorem channels_of_tableT {i v n m : Nat} (hi : i < 6) (hv : v < 256) (hn : n < 256) (hm : m < 256) :
    (redOf (packRow (hsvRow Config.lce i) v n m)).toNat = [v, v, n, m, m, n].getD i 0 ∧
    (greenOf (packRow (hsvRow Config.lce i) v n m)).toNat = [n, m, m, n, v, v].getD i 0 ∧
    (blueOf (packRow (hsvRow Config.lce i) v n m)).toNat = [m, n, v, v, n, m].getD i 0 := by
  rw [packRow, redOf_pack, greenOf_pack, blueOf_pack]
  have hv := toNat_ofInt8_natCast hv
  have hn := toNat_ofInt8_natCast hn
  have hm := toNat_ofInt8_natCast hm
  interval_cases i
  · exact ⟨hv, hn, hm⟩
  · exact ⟨hv, hm, hn⟩
  · exact ⟨hn, hm, hv⟩
  · exact ⟨hm, hn, hv⟩
  · exact ⟨hm, hv, hn⟩
  · exact ⟨hn, hv, hm⟩

theorem mirrored_natCast {i f : Nat} (hf : f ≤ 40) :
    mirrored Config.lce i f = (if i % 2 = 1 then 40 - f else f : Nat) := by
  rw [mirrored_lce]
  split <;> split <;> omega

theorem shade_natCast (v : Nat) {q : Nat} (hq : q ≤ 255) : shade v q = (v * (255 - q) / 256 : Nat) := by
  rw [shade]
  push_cast [hq]
  rfl

/-- Settles O5: the sextant selects the row, and the row's levels are the natural-number ones, which fit a byte. -/
theorem conversionFollowsTheSextantTable : Obligations.ConversionFollowsTheSextantTable := by
  intro i f s v hi hf hs hv
  dsimp only
  rw [hsv2rgb_of_sextant hi hf (by omega) (by omega) (by omega) (by omega), mirrored_natCast hf.le]
  set g := if i % 2 = 1 then 40 - f else f with hg
  have hg40 : g ≤ 40 := by split at hg <;> omega
  have hq : s * g / 40 ≤ 255 := by
    have := depth_le (s := s) (f := g) (by omega) (by omega)
    omega
  have hlevel (q : Nat) : v * (255 - q) / 256 < 256 := by
    have : v * (255 - q) ≤ 255 * 255 := Nat.mul_le_mul hv (by omega)
    omega
  rw [levelM_eq_shade, levelN_eq_shade, shade_natCast v hs]
  rw [show (s : Int) * g / 40 = (s * g / 40 : Nat) by push_cast; rfl, shade_natCast v hq]
  exact channels_of_tableT hi (by omega) (hlevel _) (hlevel _)

/-! ### Colours whose channels are close (R69) -/

/-- Two bytes, as CONV's integers, at most `d` apart. -/
def ByteWithin (d : Nat) (a b : Int) : Prop := (0 ≤ a ∧ a < 256) ∧ (0 ≤ b ∧ b < 256) ∧ a - b ≤ d ∧ b - a ≤ d

/-- No channel of the one colour is more than `d` from that of the other. -/
def ChannelsWithin (d : Nat) (x y : Rgb) : Prop :=
  chanDist (redOf x) (redOf y) ≤ d ∧ chanDist (greenOf x) (greenOf y) ≤ d ∧ chanDist (blueOf x) (blueOf y) ≤ d

theorem ByteWithin.refl (d : Nat) {a : Int} (ha : 0 ≤ a) (ha' : a < 256) : ByteWithin d a a :=
  ⟨⟨ha, ha'⟩, ⟨ha, ha'⟩, by omega, by omega⟩

theorem ByteWithin.symm {d : Nat} {a b : Int} : ByteWithin d a b → ByteWithin d b a
  | ⟨ha, hb, hab, hba⟩ => ⟨hb, ha, hba, hab⟩

theorem ByteWithin.chanDist_le {d : Nat} {a b : Int} : ByteWithin d a b → chanDist (BitVec.ofInt 8 a) (BitVec.ofInt 8 b) ≤ d
  | ⟨⟨ha, ha'⟩, ⟨hb, hb'⟩, hab, hba⟩ => by
    apply Machine.chanDist_le <;> rwa [ofInt8_toNat ha ha', ofInt8_toNat hb hb']

theorem ChannelsWithin.refl (d : Nat) (x : Rgb) : ChannelsWithin d x x := by
  simp only [ChannelsWithin, chanDist_self, Nat.zero_le, and_self]

/-- One row with levels that are close gives colours that are close. -/
theorem packRow_within {d : Nat} {v n m v' n' m' : Int} (row : HsvRow) (hv : ByteWithin d v v') (hn : ByteWithin d n n')
    (hm : ByteWithin d m m') : ChannelsWithin d (packRow row v n m) (packRow row v' n' m') := by
  have hpick (l : Level) :
      chanDist (BitVec.ofInt 8 (Level.pick v n m l)) (BitVec.ofInt 8 (Level.pick v' n' m' l)) ≤ d := by
    cases l with
    | v => exact hv.chanDist_le
    | n => exact hn.chanDist_le
    | m => exact hm.chanDist_le
  unfold ChannelsWithin packRow
  rw [redOf_pack, redOf_pack, greenOf_pack, greenOf_pack, blueOf_pack, blueOf_pack]
  exact ⟨hpick row.r, hpick row.g, hpick row.b⟩

/-! ### Neighbouring rows (R68, R69) -/

/-- A row with its levels renamed. -/
def HsvRow.map (σ : Level → Level) (row : HsvRow) : HsvRow := ⟨σ row.r, σ row.g, σ row.b⟩

/-- `n` and `m` exchanged: from an even row to the next. -/
def Level.swapNM : Level → Level
  | .v => .v
  | .n => .m
  | .m => .n

/-- `v` and `n` exchanged: from an odd row to the next, row 0 after row 5. -/
def Level.swapVN : Level → Level
  | .v => .n
  | .n => .v
  | .m => .m

theorem packRow_map_swapNM (row : HsvRow) (v n m : Int) :
    packRow (HsvRow.map Level.swapNM row) v n m = packRow row v m n := by
  have hpick (l : Level) : Level.pick v n m (Level.swapNM l) = Level.pick v m n l := by cases l <;> rfl
  simp only [packRow, HsvRow.map, hpick]

theorem packRow_map_swapVN (row : HsvRow) (v n m : Int) :
    packRow (HsvRow.map Level.swapVN row) v n m = packRow row n v m := by
  have hpick (l : Level) : Level.pick v n m (Level.swapVN l) = Level.pick n v m l := by cases l <;> rfl
  simp only [packRow, HsvRow.map, hpick]

theorem hsvRow_after_even :
    ∀ k < 6, k % 2 = 0 → hsvRow Config.lce ((k + 1) % 6) = HsvRow.map Level.swapNM (hsvRow Config.lce k) := by decide

theorem hsvRow_after_odd :
    ∀ k < 6, k % 2 = 1 → hsvRow Config.lce ((k + 1) % 6) = HsvRow.map Level.swapVN (hsvRow Config.lce k) := by decide

section
variable {s v : Int} (hs : 0 ≤ s) (hs' : s ≤ 255) (hv : 0 ≤ v) (hv' : v ≤ 255)

include hv hv' in
theorem shade_within {d : Nat} {q q' : Int} (hq : -1 ≤ q) (hle : q ≤ q') (hq' : q' ≤ 255) (hd : q' - q ≤ d) :
    ByteWithin d (shade v q) (shade v q') := by
  have hanti := shade_antitone hv hle
  have hstep := shade_le_shade_add hv' hle
  have htop := shade_le_value hv hq
  have hbot := shade_nonneg hv hq'
  exact ⟨by omega, by omega, by omega, by omega⟩

include hv hv' in
theorem value_within {d : Nat} {q : Int} (hq : -1 ≤ q) (hq' : q ≤ 255) (hd : q + 1 ≤ d) : ByteWithin d v (shade v q) := by
  have h := shade_within hv hv' (by decide) hq hq' (by omega : q - -1 ≤ d)
  rwa [shade_neg_one] at h

include hs hs' hv hv' in
/-- One hue unit moves `q` by at most `255/40`, rounded up. -/
theorem levelN_step_within {f : Int} (hf : 0 ≤ f) (hf' : f + 1 ≤ 40) :
    ByteWithin 7 (levelN Config.lce s v f) (levelN Config.lce s v (f + 1)) := by
  have hnonneg := depth_nonneg hs hf
  have hle := depth_le hs hf'
  rw [levelN_eq_shade, levelN_eq_shade]
  rw [mul_add, mul_one] at hle ⊢
  exact shade_within hv hv' (by omega) (by omega) (by omega) (by omega)

include hs hs' hv hv' in
theorem levelM_within_self (d : Nat) : ByteWithin d (levelM Config.lce s v) (levelM Config.lce s v) :=
  .refl d (shade_nonneg hv hs') ((shade_le_value hv (by omega)).trans_lt (by omega))

include hs hs' hv hv' in
/-- In one row only the graded level moves with `f`. -/
theorem same_row_within {d : Nat} {f f' : Int} (row : HsvRow)
    (h : ByteWithin d (levelN Config.lce s v f) (levelN Config.lce s v f')) :
    ChannelsWithin d (packRow row v (levelN Config.lce s v f) (levelM Config.lce s v))
      (packRow row v (levelN Config.lce s v f') (levelM Config.lce s v)) :=
  packRow_within row (.refl d hv (by omega)) h (levelM_within_self hs hs' hv hv' d)

/-- At `f = 40` the graded level is the low one. -/
theorem levelN_forty (s v : Int) : levelN Config.lce s v 40 = levelM Config.lce s v := by
  rw [levelN_eq_shade, levelM_eq_shade, Int.mul_ediv_cancel s (by decide)]

/-- Across an even row's far boundary the graded and the low level change places, and there they are equal. -/
theorem next_row_of_even {k : Nat} (hk : k < 6) (he : k % 2 = 0) (s v : Int) :
    packRow (hsvRow Config.lce ((k + 1) % 6)) v (levelN Config.lce s v (mirrored Config.lce ((k + 1) % 6 : Nat) 0))
        (levelM Config.lce s v) =
      packRow (hsvRow Config.lce k) v (levelN Config.lce s v 40) (levelM Config.lce s v) := by
  rw [hsvRow_after_even k hk he, packRow_map_swapNM, mirrored_of_odd (by omega), sub_zero, levelN_forty]

include hs hs' hv hv' in
/-- Across an odd row's far boundary the value and the graded level change places, and the graded level at `f = 0` is within
one unit of the value. -/
theorem next_row_of_odd {k : Nat} (hk : k < 6) (ho : k % 2 = 1) {d : Nat} {f : Int} (hf : 0 ≤ f) (hf' : f ≤ 40)
    (hd : s * f / 40 + 1 ≤ d) :
    ChannelsWithin d (packRow (hsvRow Config.lce k) v (levelN Config.lce s v f) (levelM Config.lce s v))
      (packRow (hsvRow Config.lce ((k + 1) % 6)) v (levelN Config.lce s v (mirrored Config.lce ((k + 1) % 6 : Nat) 0))
        (levelM Config.lce s v)) := by
  have hnonneg := depth_nonneg hs hf
  have hle := depth_le hs hf'
  rw [hsvRow_after_odd k hk ho, packRow_map_swapVN, mirrored_of_even (by omega), levelN_eq_shade, levelN_eq_shade, mul_zero]
  exact packRow_within _ (value_within hv hv' (by decide) (by decide) (by omega))
    (value_within hv hv' (by omega) (by omega) hd).symm (levelM_within_self hs hs' hv hv' d)

include hs hs' hv hv' in
/-- Two hues of one sextant. -/
theorem hsv2rgb_step_inside {i f : Nat} (hi : i < 6) (hf : f + 1 < 40) :
    ChannelsWithin 7 (hsv2rgb Config.lce (40 * i + f : Nat) s v) (hsv2rgb Config.lce (40 * i + (f + 1) : Nat) s v) := by
  rw [hsv2rgb_of_sextant hi (by omega) hs hs' hv hv', hsv2rgb_of_sextant hi hf hs hs' hv hv']
  apply same_row_within hs hs' hv hv'
  obtain he | ho := Nat.mod_two_eq_zero_or_one i
  · rw [mirrored_of_even he, mirrored_of_even he, Nat.cast_succ]
    exact levelN_step_within hs hs' hv hv' (by omega) (by omega)
  · rw [mirrored_of_odd ho, mirrored_of_odd ho, show (40 - f : Int) = 40 - (f + 1 : Nat) + 1 by omega]
    exact (levelN_step_within hs hs' hv hv' (by omega) (by omega)).symm

include hs hs' hv hv' in
/-- The last hue of a sextant and the first of the next. -/
theorem hsv2rgb_step_across {i : Nat} (hi : i + 1 < 6) :
    ChannelsWithin 7 (hsv2rgb Config.lce (40 * i + 39 : Nat) s v) (hsv2rgb Config.lce (40 * (i + 1) + 0 : Nat) s v) := by
  have hmod : (i + 1) % 6 = i + 1 := Nat.mod_eq_of_lt hi
  rw [hsv2rgb_of_sextant (by omega) (by decide) hs hs' hv hv', hsv2rgb_of_sextant hi (by decide) hs hs' hv hv', ← hmod,
    Nat.cast_zero]
  obtain he | ho := Nat.mod_two_eq_zero_or_one i
  · rw [next_row_of_even (by omega) he, mirrored_of_even he]
    exact same_row_within hs hs' hv hv' _ (levelN_step_within hs hs' hv hv' (by decide) (by decide))
  · rw [mirrored_of_odd ho]
    exact next_row_of_odd hs hs' hv hv' (by omega) ho (by decide) (by decide) (by omega)

end

/-- Settles O7: an even row meets the next exactly, an odd one to within the unit between `v` and `n` at `f = 0`. -/
theorem sextantRowsMeetAtTheBoundary : Obligations.SextantRowsMeetAtTheBoundary := by
  intro k s v hk hs hs' hv hv'
  dsimp only
  obtain he | ho := Nat.mod_two_eq_zero_or_one k
  · rw [next_row_of_even hk he, mirrored_of_even he]
    exact ⟨fun _ => rfl, ChannelsWithin.refl 1 _⟩
  · rw [mirrored_of_odd ho, sub_self]
    exact ⟨fun he => by omega, next_row_of_odd hs hs' hv hv' hk ho le_rfl (by decide) (by rw [mul_zero]; decide)⟩

/-- Settles O8: the next hue is in the same sextant or is the first of the next one. -/
theorem neighbouringHuesDifferByAtMostSeven : Obligations.NeighbouringHuesDifferByAtMostSeven := by
  intro h s v hh hs hv
  obtain ⟨i, f, hf, rfl⟩ : ∃ i f, f < 40 ∧ h = 40 * i + f := ⟨h / 40, h % 40, by omega, by omega⟩
  obtain hin | rfl : f + 1 < 40 ∨ f = 39 := by omega
  · exact hsv2rgb_step_inside (by omega) (by omega) (by omega) (by omega) (by omega) hin
  · exact hsv2rgb_step_across (by omega) (by omega) (by omega) (by omega) (by omega)

end Sys2Proof.Machine
end

section
/-! PROOFS. 41_animation_engine.md: the rate limiter (R74), one step of a channel (R76), an animated TICK (R73, R77), runs of
effective TICKs (R79), the converged block (R78), and SET_TARGET's call for a broadcast (R72). -/

namespace Sys2Proof.Machine

open Sys2Proof

/-! ### TICK that does not animate (R73, R74) -/

/-- Settles O10: the limiter stops the TICK before its first write. -/
theorem tickInsideTheRateLimitDoesNothing : Obligations.TickInsideTheRateLimitDoesNothing :=
  fun _ _ => exec_tick_limited

/-- Settles O11: past the limiter T_LAST is written first, and a converged block is not CHANGED. -/
theorem tickOnConvergedBlockWritesOnlyTheStamp : Obligations.TickOnConvergedBlockWritesOnlyTheStamp :=
  fun _ _ => exec_tick_converged

/-! ### One step of a channel (R76) -/

theorem min_le_stepToward_toNat (x t : Byte) : min x.toNat t.toNat ≤ (stepToward x t).toNat := by
  rw [stepToward_toNat]
  split
  · omega
  · split <;> omega

theorem chanDist_stepToward (x t : Byte) : chanDist (stepToward x t) t = chanDist x t - 1 := by
  unfold chanDist
  rw [stepToward_toNat]
  split
  · omega
  · split <;> omega

theorem stepToward_toNat_eq_add_sign (x t : Byte) :
    ((stepToward x t).toNat : Int) = x.toNat + Int.sign (t.toNat - x.toNat) := by
  rw [stepToward_toNat]
  split
  · rw [Int.sign_eq_one_of_pos (by omega)]
    omega
  · split
    · rw [Int.sign_eq_neg_one_of_neg (by omega)]
      omega
    · rw [show (t.toNat : Int) - x.toNat = 0 by omega, Int.sign_zero, add_zero]

/-- Settles O13: the step of R76, on numbers. -/
theorem stepNeverPassesItsTarget : Obligations.StepNeverPassesItsTarget := fun x t =>
  ⟨min_le_stepToward_toNat x t, stepToward_toNat_le_max x t, chanDist_stepToward x t, stepToward_eq_self_iff x t⟩

/-! ### A TICK that animates (R73, R75, R77) -/

theorem lastLevel_sd_emitWrites_replicate {n : Nat} (hn : 1 ≤ n) (x : Rgb) (d : Bool) :
    lastLevel .sd d (emitWrites (List.replicate n x)) = x.getLsbD 0 := by
  have hlast : (List.replicate n x).getLast? = some x := by simp [List.getLast?_replicate]; omega
  simp only [lastLevel_sd_emitWrites, hlast]

/-- The animation as one record: the EMIT leaves the clock line low and the data line at the last position's bit 0 (R81). -/
theorem animate_eq {c : Config} (hL : 1 ≤ c.stripLen) (st : State) :
    st.animate c =
      { st with
        cur := stepHsv st.cur st.tgt
        frame := List.replicate c.stripLen (convert c (stepHsv st.cur st.tgt))
        trace := st.trace ++ emitWrites (List.replicate c.stripLen (convert c (stepHsv st.cur st.tgt)))
        sck := false
        sd := (convert c (stepHsv st.cur st.tgt)).getLsbD 0 } := by
  rw [← lastLevel_sck_emitWrites st.sck (List.replicate c.stripLen (convert c (stepHsv st.cur st.tgt))),
    ← lastLevel_sd_emitWrites_replicate hL (convert c (stepHsv st.cur st.tgt)) st.sd]
  rfl

theorem execWith_tick_steps {c : Config} {st : State} {now : Clock} (hn : now.toNat < 2 ^ c.clockW)
    (hp : c.rateMs ≤ elapsed c now st.tLast) (hne : st.cur ≠ st.tgt) :
    execWith c (.tick now) st = .next ((st.setTLast now).animate c) := by
  rw [execWith_tick, onTick_past hp, storeClock_fits hn, pastLimiter_steps hne]

/-- Each channel moves by the sign of its distance to the target (R73, R76). -/
theorem stepHsv_eq_add_sign (x t : Hsv) :
    ((stepHsv x t).h.toNat : Int) = x.h.toNat + Int.sign (t.h.toNat - x.h.toNat) ∧
    ((stepHsv x t).s.toNat : Int) = x.s.toNat + Int.sign (t.s.toNat - x.s.toNat) ∧
    ((stepHsv x t).v.toNat : Int) = x.v.toNat + Int.sign (t.v.toNat - x.v.toNat) :=
  ⟨stepToward_toNat_eq_add_sign _ _, stepToward_toNat_eq_add_sign _ _, stepToward_toNat_eq_add_sign _ _⟩

/-- Settles O12: the TICK is the animation on the stamped state, in this hardware's block as in any admitted one. -/
theorem tickStepsConvertsAndEmits : Obligations.TickStepsConvertsAndEmits := by
  constructor
  · intro st now hp hne
    have htick := exec_tick_steps hp hne
    rw [animate_eq (by decide)] at htick
    exact ⟨_, _, htick, rfl, stepHsv_eq_add_sign st.cur st.tgt⟩
  · intro c st now hc hn hp hne
    obtain ⟨hL, -⟩ := strip_and_resets_of_admitted hc
    have htick := execWith_tick_steps hn ((le_elapsed_iff _ _ _ _).mpr hp) hne
    rw [animate_eq hL] at htick
    exact ⟨_, _, htick, rfl, stepHsv_eq_add_sign st.cur st.tgt⟩

/-! ### The closed form of a channel (R79) -/

theorem chanAfter_zero (x t : Byte) : chanAfter 0 x t = x.toNat := by
  simp [chanAfter]

/-- R79's closed form without its sign: the value moves by `k` and is stopped by the target. -/
theorem chanAfter_eq (k : Nat) (x t : Byte) :
    chanAfter k x t = if x.toNat < t.toNat then min ((x.toNat : Int) + k) t.toNat else max ((x.toNat : Int) - k) t.toNat := by
  unfold chanAfter chanDist
  obtain hlt | heq | hgt := lt_trichotomy x.toNat t.toNat
  · rw [if_pos hlt, Int.sign_eq_one_of_pos (by omega)]
    omega
  · rw [heq, if_neg (lt_irrefl _), sub_self, Int.sign_zero]
    omega
  · rw [if_neg hgt.not_gt, Int.sign_eq_neg_one_of_neg (by omega)]
    omega

/-- A step and then `k` more are `k + 1` steps. -/
theorem chanAfter_stepToward (k : Nat) (x t : Byte) : chanAfter k (stepToward x t) t = chanAfter (k + 1) x t := by
  rw [chanAfter_eq, chanAfter_eq, stepToward_toNat]
  split_ifs <;> omega

theorem chanAfter_eq_target_iff (k : Nat) (x t : Byte) : chanAfter k x t = t.toNat ↔ chanDist x t ≤ k := by
  rw [chanAfter_eq, chanDist]
  split <;> omega

/-! ### The distance of a colour (R79) -/

theorem hsv_eq_iff_toNat (x y : Hsv) :
    x = y ↔ (x.h.toNat : Int) = y.h.toNat ∧ (x.s.toNat : Int) = y.s.toNat ∧ (x.v.toNat : Int) = y.v.toNat := by
  cases x
  cases y
  simp [BitVec.toNat_inj]

theorem hsvDist_le_iff (x t : Hsv) (k : Nat) :
    hsvDist x t ≤ k ↔ chanDist x.h t.h ≤ k ∧ chanDist x.s t.s ≤ k ∧ chanDist x.v t.v ≤ k := by
  rw [hsvDist, Nat.max_le, Nat.max_le]

theorem hsvDist_self (x : Hsv) : hsvDist x x = 0 := by
  simp [hsvDist, chanDist_self]

theorem hsvDist_pos {x t : Hsv} (h : x ≠ t) : 0 < hsvDist x t := by
  refine Nat.pos_of_ne_zero fun h0 => h ((hsv_eq_iff_toNat x t).mpr ?_)
  obtain ⟨hh, hs, hv⟩ := (hsvDist_le_iff x t 0).mp h0.le
  unfold chanDist at hh hs hv
  omega

@[simp] theorem stepHsv_self (x : Hsv) : stepHsv x x = x := by
  simp [stepHsv]

theorem hsvDist_stepHsv (x t : Hsv) : hsvDist (stepHsv x t) t = hsvDist x t - 1 := by
  simp only [hsvDist, stepHsv, chanDist_stepToward]
  omega

/-! ### A TICK past the limiter, by register (R73) -/

/-- Past the limiter T_LAST is stamped, and an animation may follow. -/
theorem pastLimiter_cases (c : Config) (now : Clock) (st : State) :
    st.pastLimiter c now = st.setTLast now ∨ st.pastLimiter c now = (st.setTLast now).animate c := by
  by_cases hc : st.cur = st.tgt
  · exact .inl (pastLimiter_converged hc c now)
  · exact .inr (pastLimiter_steps hc c now)

@[simp] theorem pastLimiter_tgt (c : Config) (now : Clock) (st : State) : (st.pastLimiter c now).tgt = st.tgt := by
  obtain h | h := pastLimiter_cases c now st <;> rw [h] <;> rfl

@[simp] theorem pastLimiter_tLast (c : Config) (now : Clock) (st : State) : (st.pastLimiter c now).tLast = now := by
  obtain h | h := pastLimiter_cases c now st <;> rw [h] <;> rfl

/-- A converged colour steps to itself, so the current colour is the stepped one in either case. -/
@[simp] theorem pastLimiter_cur (c : Config) (now : Clock) (st : State) :
    (st.pastLimiter c now).cur = stepHsv st.cur st.tgt := by
  by_cases hc : st.cur = st.tgt
  · rw [pastLimiter_converged hc, hc, stepHsv_self]
    exact hc
  · rw [pastLimiter_steps hc]
    rfl

/-- One EMIT of 361 writes while the colours differ, none after. -/
theorem length_pastLimiter_trace (now : Clock) (st : State) :
    (st.pastLimiter Config.lce now).trace.length = st.trace.length + 361 * min 1 (hsvDist st.cur st.tgt) := by
  by_cases hc : st.cur = st.tgt
  · rw [pastLimiter_converged hc, hc, hsvDist_self]
    rfl
  · have hpos := hsvDist_pos hc
    rw [pastLimiter_steps hc, State.animate_trace, List.length_append, length_emitWrites, List.length_replicate,
      lce_stripLen, Nat.min_eq_left hpos]
    rfl

/-! ### Runs of effective TICKs (R79) -/

/-- Settles O14, by induction on the times: a TICK past the limiter steps each channel once, and brings the distance one
nearer to zero, where the EMITs end. -/
theorem effectiveTicksFollowTheClosedForm : Obligations.EffectiveTicksFollowTheClosedForm := by
  intro st nows
  induction nows generalizing st with
  | nil =>
    intro _
    exact ⟨st, rfl, (chanAfter_zero _ _).symm, (chanAfter_zero _ _).symm, (chanAfter_zero _ _).symm, rfl, by simp⟩
  | cons now rest ih =>
    rintro ⟨hnow, hrest⟩
    have hexec := exec_tick_past (by rwa [elapsed_lce] at hnow)
    obtain ⟨t, ht, hh, hs, hv, htgt, hlen⟩ := ih (st.pastLimiter Config.lce now) (by rwa [pastLimiter_tLast])
    simp only [pastLimiter_cur, pastLimiter_tgt] at hh hs hv htgt hlen
    refine ⟨t, ?_, hh.trans (chanAfter_stepToward _ _ _), hs.trans (chanAfter_stepToward _ _ _),
      hv.trans (chanAfter_stepToward _ _ _), htgt, ?_⟩
    · rw [List.map_cons, runEvents_cons, hexec, andThen_next, ht]
    · rw [length_pastLimiter_trace, hsvDist_stepHsv] at hlen
      rw [hlen, List.length_cons]
      omega

/-- Settles O15: by the closed form a channel holds its target exactly when its distance is used up. -/
theorem convergesInExactlyTheLargestDistance : Obligations.ConvergesInExactlyTheLargestDistance := by
  intro st nows t heff hrun
  obtain ⟨u, hu, hh, hs, hv, htgt, -⟩ := effectiveTicksFollowTheClosedForm st nows heff
  obtain rfl : t = u := Host.Outcome.next.inj (hrun.symm.trans hu)
  rw [htgt, hsv_eq_iff_toNat, hh, hs, hv, chanAfter_eq_target_iff, chanAfter_eq_target_iff, chanAfter_eq_target_iff,
    hsvDist_le_iff]

/-! ### The converged block (R78) -/

/-- The colours, FRAME, TRACE and the lines: what a converged block does not touch (R78). -/
def State.display (st : State) : Hsv × Hsv × List Rgb × List LineWrite × Bool × Bool :=
  (st.cur, st.tgt, st.frame, st.trace, st.sd, st.sck)

/-- A quiet event on a converged block completes, and the display stays: it can write T_LAST, the Broadcast Timer or the
status port. -/
theorem exec_quiet_keeps_display {i : Instr} {st : State} (hi : quietEvent i = true) (hc : st.cur = st.tgt) :
    ∃ t, exec i st = .next t ∧ t.display = st.display := by
  cases i with
  | tick now =>
    by_cases hl : (now - st.tLast).toNat < 4
    · exact ⟨st, exec_tick_limited hl, rfl⟩
    · exact ⟨_, exec_tick_converged (Nat.not_lt.mp hl) hc, rfl⟩
  | bcastMark now => exact ⟨_, exec_bcastMark now st, rfl⟩
  | readStatus => exact ⟨_, exec_readStatus st, rfl⟩
  | uartByte | usbCmd | radioSet | cmdSet | cmdIgnore => cases hi

theorem runEvents_quiet_keeps_display {evs : List Instr} {st : State} (hc : st.cur = st.tgt)
    (hq : ∀ i ∈ evs, quietEvent i = true) : ∃ t, runEvents evs st = .next t ∧ t.display = st.display := by
  induction evs generalizing st with
  | nil => exact ⟨st, rfl, rfl⟩
  | cons i is ih =>
    obtain ⟨hi, his⟩ := List.forall_mem_cons.mp hq
    obtain ⟨u, hu, hdu⟩ := exec_quiet_keeps_display hi hc
    have hcu : u.cur = u.tgt := by
      have hd := hdu
      simp only [State.display, Prod.mk.injEq] at hd
      obtain ⟨hcur, htgt, -⟩ := hd
      rw [hcur, htgt, hc]
    obtain ⟨t, ht, hdt⟩ := ih hcu his
    exact ⟨t, by rw [runEvents_cons, hu, andThen_next, ht], hdt.trans hdu⟩

/-- Settles O16: no quiet event changes the display of a converged block, so the block stays converged. -/
theorem convergedBlockStaysSilent : Obligations.ConvergedBlockStaysSilent := by
  intro st evs hc hq
  obtain ⟨t, ht, hd⟩ := runEvents_quiet_keeps_display hc hq
  simp only [State.display, Prod.mk.injEq] at hd
  exact ⟨t, ht, hd⟩

/-! ### The time between strip writes (R74, 70_reset_and_hazards.md R125) -/

/-- A TICK that writes TRACE went past the limiter, and so wrote T_LAST. -/
theorem past_and_stamped_of_trace_ne {st t : State} {now : Clock} (h : exec (.tick now) st = .next t)
    (hne : t.trace ≠ st.trace) : 4 ≤ (now - st.tLast).toNat ∧ t.tLast = now := by
  by_cases hl : (now - st.tLast).toNat < 4
  · rw [exec_tick_limited hl] at h
    cases h
    exact absurd rfl hne
  · have hp := Nat.not_lt.mp hl
    rw [exec_tick_past hp] at h
    cases h
    exact ⟨hp, pastLimiter_tLast _ _ _⟩

/-- Only a TICK writes T_LAST (R14). -/
theorem runEvents_tLast_of_no_tick {evs : List Instr} {st t : State} (hp : ∀ i ∈ evs, i.port ≠ some .tickIn)
    (h : runEvents evs st = .next t) : t.tLast = st.tLast := by
  induction evs generalizing st with
  | nil =>
    cases h
    rfl
  | cons i is ih =>
    obtain ⟨hi, his⟩ := List.forall_mem_cons.mp hp
    rw [runEvents_cons] at h
    obtain ⟨u, hu, ht⟩ := andThen_eq_next.mp h
    obtain ⟨-, htLast, -⟩ := (exec_effect hu).anim_eq (by rintro now rfl; exact hi rfl)
    exact (ih his ht).trans htLast

/-- Settles O17: the first TICK's stamp is still in T_LAST when the second goes past the limiter. -/
theorem stripWritesAreFourMillisecondsApart : Obligations.StripWritesAreFourMillisecondsApart := by
  intro st t u w now1 now2 evs h1 hne1 hevs hrun h2 hne2
  obtain ⟨-, hstamp⟩ := past_and_stamped_of_trace_ne h1 hne1
  obtain ⟨hpast, -⟩ := past_and_stamped_of_trace_ne h2 hne2
  rwa [runEvents_tLast_of_no_tick hevs hrun, hstamp] at hpast

/-! ### The broadcast that a new target calls for (R72, 60_exceptions.md R115) -/

/-- RADIO_SET and an `'S'` USB_CMD are SET_TARGET of some colour (R87, R99). -/
theorem exec_eq_setTarget {i : Instr} (st : State)
    (hi : (∃ h s v, i = .radioSet h s v) ∨ ∃ buf : Bytes7, i = .usbCmd buf ∧ buf.b0 = 0x53#8) :
    ∃ x, exec i st = .next (st.setTarget Config.lce x) := by
  obtain ⟨h, s, v, rfl⟩ | ⟨buf, rfl, hS⟩ := hi
  · exact ⟨_, exec_radioSet h s v st⟩
  · exact ⟨_, (exec_usbCmd buf st).trans (congrArg Host.Outcome.next (parse_set hS st))⟩

/-- A check that finds the broadcast due and a slot free sends the packet of the target and marks the broadcast (R115). -/
theorem coord_broadcasts {n : Node} {now : Clock} (h : broadcastDue Config.lce now (statusOf n.lce) = true) :
    n.coord Config.lce now true =
      .next { n with
        lce := (n.lce.logStatus (statusOf n.lce)).markSent now
        tx := n.tx ++ [packetOf Config.lce n.lce.tgt] } := by
  have hpacket : coordPacket Config.lce now true (statusOf (n.lce.logStatus (statusOf n.lce))) =
      some (packetOf Config.lce n.lce.tgt) := if_pos (by rw [Bool.and_true]; exact h)
  rw [Node.coord, execWith_readStatus, andThen_next, hpacket]
  simp only [execWith_bcastMark, storeClock_lce, andThen_next]

theorem broadcastDue_of_btDue {st : State} (hr : st.role = .coordinator) (hd : st.btDue = true) (c : Config) (now : Clock) :
    broadcastDue c now (statusOf st) = true := by
  simp [broadcastDue, statusOf, hr, hd]

/-- Settles O56: SET_TARGET leaves ROLE alone and makes the Broadcast Timer DUE, at any time. -/
theorem setTargetForcesTheNextBroadcast : Obligations.SetTargetForcesTheNextBroadcast := by
  intro i n st now hrole hi hst
  obtain ⟨x, hx⟩ := exec_eq_setTarget n.lce hi
  obtain rfl : st = n.lce.setTarget Config.lce x := Host.Outcome.next.inj (hst.symm.trans hx)
  have hdue := broadcastDue_of_btDue (st := n.lce.setTarget Config.lce x) hrole rfl Config.lce now
  exact ⟨_, coord_broadcasts (n := { n with lce := n.lce.setTarget Config.lce x }) hdue, rfl, rfl⟩

end Sys2Proof.Machine
end

section
/-! PROOFS. 42_strip_driver.md: EMIT as one stream of bits, three writes to a bit (R81), the numbers of its writes and what the
data line carries at the clock's rising edges (R82). -/

namespace Sys2Proof.Machine

open Sys2Proof

/-! ### The bits on the wire (30_encoding.md R61) -/

theorem msbFirst_eq_map_range {w : Nat} (x : BitVec w) (n : Nat) :
    msbFirst x n = (List.range n).map fun j => x.getLsbD (n - 1 - j) := by
  induction n with
  | zero => rfl
  | succ n ih =>
    rw [msbFirst, ih, List.range_succ_eq_map, List.map_cons, List.map_map]
    refine congrArg _ (List.map_congr_left fun j _ => congrArg x.getLsbD ?_)
    simp only [Nat.succ_eq_add_one]
    omega

theorem wireBits_eq_map_range (x : Rgb) : wireBits x = (List.range 24).map fun j => x.getLsbD (23 - j) :=
  msbFirst_eq_map_range x 24

theorem length_flatMap_wireBits (frame : List Rgb) : (frame.flatMap wireBits).length = 24 * frame.length := by
  simp [wireBits, List.length_flatMap, Nat.mul_comm]

/-- An EMIT does not show where one position ends and the next begins: its writes are those of one stream of bits (R81). -/
theorem emitWrites_eq_flatMap_bitWrites (frame : List Rgb) :
    emitWrites frame = (frame.flatMap wireBits).flatMap bitWrites ++ [⟨.sck, false⟩] := by
  rw [emitWrites, List.flatMap_assoc]
  rfl

/-! ### The writes of one EMIT in order (R81) -/

theorem positionWrites_eq_flatMap_range (x : Rgb) :
    positionWrites x = (List.range 24).flatMap fun j => bitWrites (x.getLsbD (23 - j)) := by
  rw [positionWrites, wireBits_eq_map_range, List.flatMap_map]

/-- A batch of writes is known by the writes and the two levels it ends with (R21, R22). -/
theorem drive_eq_of_levels {ws : List LineWrite} {st : State} {sck sd : Bool} (hsck : lastLevel .sck st.sck ws = sck)
    (hsd : lastLevel .sd st.sd ws = sd) : st.drive ws = { st with trace := st.trace ++ ws, sck := sck, sd := sd } := by
  rw [State.drive, hsck, hsd]

/-- Settles O19: EMIT drives each position's bits by index, and the lines end as its last writes leave them. -/
theorem emitShiftsEveryPositionMostSignificantBitFirst : Obligations.EmitShiftsEveryPositionMostSignificantBitFirst := by
  intro st writes
  have hwrites : emitWrites st.frame = writes := by
    rw [emitWrites, funext positionWrites_eq_flatMap_range]
    rfl
  rw [← hwrites]
  exact drive_eq_of_levels (lastLevel_sck_emitWrites st.sck st.frame) (lastLevel_sd_emitWrites st.frame st.sd)

/-! ### The writes to each line (R82) -/

theorem lineWrites_append (l : Line) (a b : List LineWrite) : lineWrites l (a ++ b) = lineWrites l a ++ lineWrites l b :=
  List.filter_append a b

theorem length_lineWrites_sck_bits (bits : List Bool) : (lineWrites .sck (bits.flatMap bitWrites)).length = 2 * bits.length := by
  induction bits with
  | nil => rfl
  | cons d bits ih =>
    have hbit : (lineWrites .sck (bitWrites d)).length = 2 := rfl
    rw [List.flatMap_cons, lineWrites_append, List.length_append, hbit, ih, List.length_cons]
    omega

theorem lineWrites_sd_bits (bits : List Bool) : lineWrites .sd (bits.flatMap bitWrites) = bits.map (LineWrite.mk .sd) := by
  induction bits with
  | nil => rfl
  | cons d bits ih =>
    rw [List.flatMap_cons, lineWrites_append, ih]
    rfl

/-- Settles O20: the clock line is written twice for each of the `24L` bits and once at the end, the data line once for each. -/
theorem emitWriteCounts : Obligations.EmitWriteCounts := by
  intro frame
  refine ⟨length_emitWrites frame, ?_, ?_⟩
  · have hend : (lineWrites .sck [⟨.sck, false⟩]).length = 1 := rfl
    rw [emitWrites_eq_flatMap_bitWrites, lineWrites_append, List.length_append, length_lineWrites_sck_bits, hend,
      length_flatMap_wireBits]
    omega
  · have hend : lineWrites .sd [⟨.sck, false⟩] = [] := rfl
    rw [emitWrites_eq_flatMap_bitWrites, lineWrites_append, lineWrites_sd_bits, hend, List.append_nil, List.length_map,
      length_flatMap_wireBits]

/-! ### The data line at the rising edges (R82) -/

/-- Whatever the levels before it, the three writes of a bit make one rising edge, with that bit on the data line. -/
theorem risingSamples_bitWrites_append (sck sd d : Bool) (ws : List LineWrite) :
    risingSamples sck sd (bitWrites d ++ ws) = d :: risingSamples true d ws := by
  simp [bitWrites, risingSamples]

/-- A stream of bits is read back at the rising edges; the clock low at its end makes none. -/
theorem risingSamples_bits (bits : List Bool) (sck sd : Bool) :
    risingSamples sck sd (bits.flatMap bitWrites ++ [⟨.sck, false⟩]) = bits := by
  induction bits generalizing sck sd with
  | nil => simp [risingSamples]
  | cons d bits ih => rw [List.flatMap_cons, List.append_assoc, risingSamples_bitWrites_append, ih]

theorem risingSamples_emitWrites (frame : List Rgb) (sck sd : Bool) :
    risingSamples sck sd (emitWrites frame) = frame.flatMap wireBits := by
  rw [emitWrites_eq_flatMap_bitWrites, risingSamples_bits]

/-- Settles O21: the rising edges give back the frame's bits, which are `24L`, by index from 23 down. -/
theorem risingEdgesCarryTheFrame : Obligations.RisingEdgesCarryTheFrame := by
  intro frame sck sd
  rw [risingSamples_emitWrites]
  exact ⟨by rw [funext wireBits_eq_map_range], length_flatMap_wireBits frame⟩

end Sys2Proof.Machine
end

section
/-! PROOFS. 43_command_parser.md: CMD_SET (R87), CMD_IGNORE (R88) and USB_CMD as the command of its buffer (R86, R89, R90). -/

namespace Sys2Proof.Machine

open Sys2Proof

/-- Settles O24: CMD_SET is SET_TARGET of the three operands read from the digits, and the clamp is the hue's alone. -/
theorem cmdSetSetsTheTargetFromHexDigits : Obligations.CmdSetSetsTheTargetFromHexDigits := by
  intro hHi hLo sHi sLo vHi vLo st
  refine ⟨_, exec_cmdSet hHi hLo sHi sLo vHi vLo st, ?_, hexPair_toNat sHi sLo, hexPair_toNat vHi vLo⟩
  calc (clampHue Config.lce (hexPair hHi hLo)).toNat
    _ = min (hexPair hHi hLo).toNat 239 := clampHue_toNat Config.lce _
    _ = min (16 * (hexd hHi).toNat + (hexd hLo).toNat) 239 := by rw [hexPair_toNat]

theorem exec_usbCmd_ignore {buf : Bytes7} (h : buf.b0 ≠ 0x53#8) (st : State) : exec (.usbCmd buf) st = .next st := by
  rw [exec_usbCmd, parse_ignore h]

/-- The seventh byte of a payload whose letter is not `'S'` sets ROLE and FS and no more (R88, 44_uart_framer.md R95). -/
theorem exec_uartByte_completes_ignore {st : State} (hf : st.fs = .buffer) (hp : st.plen = 6#3) (hS : st.pay.b0 ≠ 0x53#8)
    (b : Byte) : exec (.uartByte b) st = .next ((st.collect b).promote.setFs .wait) := by
  have hlt : st.plen.toNat < payloadLen := by rw [hp]; decide
  have hlast : st.plen.toNat + 1 = Config.lce.payloadLen := by rw [hp]; rfl
  have hletter : (st.collect b).pay.b0 = st.pay.b0 := by rw [State.collect_pay, hp]; rfl
  rw [exec_uartByte, uartByte_completes hf hlt hlast, complete_ignore (hletter.trans_ne hS)]

/-- Settles O25: without the letter `'S'` PARSE does nothing, and ROLE is set before the PARSE of a framed buffer. -/
theorem cmdIgnoreChangesNothing : Obligations.CmdIgnoreChangesNothing :=
  ⟨exec_cmdIgnore, fun _ st h => exec_usbCmd_ignore h st,
    fun b _ hf hp hS => ⟨_, exec_uartByte_completes_ignore hf hp hS b, rfl, rfl, rfl⟩⟩

/-- Settles O26: USB_CMD runs the command that its buffer decodes to, which is CMD_SET exactly under the letter `'S'`. -/
theorem usbCmdRunsTheCommandOfItsBuffer : Obligations.UsbCmdRunsTheCommandOfItsBuffer := by
  intro buf st
  refine ⟨exec_usbCmd_eq_exec_decodeCommand buf st, fun hS => ?_, fun hS => exec_usbCmd_ignore hS st⟩
  rw [exec_usbCmd_eq_exec_decodeCommand, decodeCommand_set hS]
  exact cmdSetSetsTheTargetFromHexDigits buf.b1 buf.b2 buf.b3 buf.b4 buf.b5 buf.b6 st

end Sys2Proof.Machine
end

section
/-! PROOFS. 44_uart_framer.md: one byte in each framer state (R92 to R95), and the retry of a byte that breaks a signature
(R96). -/

namespace Sys2Proof.Machine

open Sys2Proof

/-! ### A byte that starts or breaks a signature (R92 to R94) -/

theorem exec_uartByte_wait_discards {b : Byte} {st : State} (hf : st.fs = .wait) (hb : b ≠ 0x57#8) :
    exec (.uartByte b) st = .next st := by
  rw [exec_uartByte, uartByte_wait hf, lce_sigB0, if_neg hb]

theorem uartByte_sig1_retries {c : Config} {b : Byte} {st : State} (hf : st.fs = .sig1) (hb : b ≠ c.sigB1) :
    uartByte c b st = uartByte c b (st.setFs .wait) := by
  rw [uartByte_sig1 hf, if_neg hb, uartByte_wait (State.setFs_fs .wait st)]
  rfl

theorem uartByte_sig2_retries {c : Config} {b : Byte} {st : State} (hf : st.fs = .sig2) (hb : b ≠ c.sigB2) :
    uartByte c b st = uartByte c b (st.setFs .wait) := by
  rw [uartByte_sig2 hf, if_neg hb, uartByte_wait (State.setFs_fs .wait st)]
  rfl

/-- Outside a payload 0x57 leads to SIG1, whatever the state. -/
theorem exec_uartByte_of_sigB0 {b : Byte} {st : State} (hf : st.fs ≠ .buffer) (hb : b = 0x57#8) :
    exec (.uartByte b) st = .next (st.setFs .sig1) := hb ▸ exec_uartByte_sigB0 hf

/-- Settles O28, by the two branches of the WAIT arm. -/
theorem uartByteInWait : Obligations.UartByteInWait := fun _ _ hf =>
  ⟨exec_uartByte_of_sigB0 (by simp [hf]), exec_uartByte_wait_discards hf⟩

/-- Settles O29: a byte other than `'x'` runs from WAIT, which discards it unless it is 0x57. -/
theorem uartByteInSig1 : Obligations.UartByteInSig1 := by
  intro b st hf
  have hretry (hb : b ≠ 0x78#8) : exec (.uartByte b) st = exec (.uartByte b) (st.setFs .wait) :=
    uartByte_sig1_retries hf hb
  refine ⟨fun hb => ?_, hretry, exec_uartByte_of_sigB0 (by simp [hf]),
    fun hb h0 => (hretry hb).trans (exec_uartByte_wait_discards rfl h0)⟩
  rw [exec_uartByte, uartByte_sig1 hf, lce_sigB1, if_pos hb]
  rfl

/-- Settles O30: a byte other than `'|'` runs from WAIT, which discards it unless it is 0x57. -/
theorem uartByteInSig2 : Obligations.UartByteInSig2 := by
  intro b st hf
  have hretry (hb : b ≠ 0x7C#8) : exec (.uartByte b) st = exec (.uartByte b) (st.setFs .wait) :=
    uartByte_sig2_retries hf hb
  refine ⟨fun hb => ?_, hretry, exec_uartByte_of_sigB0 (by simp [hf]),
    fun hb h0 => (hretry hb).trans (exec_uartByte_wait_discards rfl h0)⟩
  rw [exec_uartByte, uartByte_sig2 hf, lce_sigB2, if_pos hb]
  rfl

/-! ### A byte of a payload (R95) -/

/-- Settles O31: six bytes are collected, and the completion of the seventh runs the PARSE that is the command's meaning. -/
theorem uartByteInBuffer : Obligations.UartByteInBuffer := by
  intro b st hf hle
  have hlt : st.plen.toNat < payloadLen := Nat.lt_succ_of_le hle
  refine ⟨(st.collect b).pay, fun k hk => Bytes7.get_set st.pay _ k b hlt hk, fun hp => ?_, fun hp => ?_⟩
  · exact uartByte_collects hf hlt (by rw [lce_payloadLen]; omega)
  · have hplen : st.plen + 1#3 = 7#3 := BitVec.eq_of_toNat_eq (by rw [plen_succ hlt, hp]; rfl)
    refine ⟨_, uartByte_completes hf hlt (by rw [hp]; rfl), ?_⟩
    rw [← hplen]
    exact exec_decodeCommand _ _

/-! ### The retry (R96) -/

theorem framerStep_wait {c : Config} {b : Byte} {st : State} (hf : st.fs = .wait) :
    framerStep c b st = .next (framerWait c b st) := by
  rw [framerStep, hf]

theorem framerBuffer_not_again {c : Config} {b : Byte} {st : State} {r : FramerStep} (h : framerBuffer c b st = .next r) :
    r.again = false := by
  unfold framerBuffer at h
  split at h <;> cases h
  rfl

theorem framerSig1_again {c : Config} {b : Byte} {st : State} (ha : (framerSig1 c b st).again = true) :
    (framerSig1 c b st).st = st.setFs .wait := by
  unfold framerSig1 at ha ⊢
  split <;> simp_all

theorem framerSig2_again {c : Config} {b : Byte} {st : State} (ha : (framerSig2 c b st).again = true) :
    (framerSig2 c b st).st = st.setFs .wait := by
  unfold framerSig2 at ha ⊢
  split <;> simp_all

/-- Only the arms for SIG1 and SIG2 ask for the byte again, and both have then only put FS at WAIT. -/
theorem framerStep_again {c : Config} {b : Byte} {st : State} {r : FramerStep} (h : framerStep c b st = .next r)
    (ha : r.again = true) : (st.fs = .sig1 ∨ st.fs = .sig2) ∧ r.st = st.setFs .wait := by
  unfold framerStep at h
  cases hf : st.fs <;> rw [hf] at h
  case wait => cases h; cases ha
  case sig1 => cases h; exact ⟨.inl rfl, framerSig1_again ha⟩
  case sig2 => cases h; exact ⟨.inr rfl, framerSig2_again ha⟩
  case buffer => rw [framerBuffer_not_again h] at ha; cases ha

/-- Settles O32: a byte asked for again meets the WAIT arm, which never asks. -/
theorem framerTriesAByteAtMostTwice : Obligations.FramerTriesAByteAtMostTwice := by
  intro c b st r h ha
  obtain ⟨hfs, hst⟩ := framerStep_again h ha
  have hwait : r.st.fs = .wait := by rw [hst, State.setFs_fs]
  exact ⟨hfs, hwait, _, framerStep_wait hwait, rfl⟩

end Sys2Proof.Machine
end

section
/-! PROOFS. 45_radio_ports.md: the radio-side ports (R99 to R101), each the one state operation of its event with the fields
that operation writes. -/

namespace Sys2Proof.Machine

open Sys2Proof

/-- SET_TARGET writes TGT and BT_DUE and no more (41_animation_engine.md R72). -/
theorem setTarget_eq (c : Config) (x : Hsv) (st : State) :
    st.setTarget c x = { st with tgt := ⟨clampHue c x.h, x.s, x.v⟩, btDue := true } := rfl

/-- A sent broadcast writes the two registers of the Broadcast Timer and no more (R100). -/
theorem markSent_eq (now : Clock) (st : State) : st.markSent now = { st with btDue := false, btStamp := now } := rfl

/-- The returned record is of the registers before the event, and only the list of records grows (R101). -/
theorem logStatus_statusOf_eq (st : State) : st.logStatus (statusOf st) =
    { st with statusOut := st.statusOut ++ [⟨st.role, st.tgt, st.btDue, st.btStamp⟩] } := rfl

/-- Settles O35: RADIO_SET is SET_TARGET of its raw bytes without a look at ROLE, and the clamp is the hue's alone. -/
theorem radioSetSetsTheTarget : Obligations.RadioSetSetsTheTarget := by
  intro h s v st
  refine ⟨⟨clampHue Config.lce h, s, v⟩, ?_, clampHue_toNat Config.lce h, rfl, rfl⟩
  rw [exec_radioSet, setTarget_eq]

/-- Settles O36: the store check passes every 32-bit `now` in this hardware, so BCAST_MARK only marks the broadcast. -/
theorem bcastMarkStoresTheStamp : Obligations.BcastMarkStoresTheStamp := by
  intro now st
  rw [exec_bcastMark, markSent_eq]

/-- Settles O37: READ_STATUS logs the record of the present registers. -/
theorem readStatusReturnsTheRecord : Obligations.ReadStatusReturnsTheRecord := by
  intro st
  rw [exec_readStatus, logStatus_statusOf_eq]

end Sys2Proof.Machine
end

section
/-! PROOFS. 60_exceptions.md: every operation and every run completes (R102, R105), and the two sides of the radio agent (R111,
R115, R116). -/

namespace Sys2Proof.Machine

open Sys2Proof

/-! ### Completion (R102, R105) -/

/-- A payload of an admitted configuration fits PAY (log 10). -/
theorem payloadLen_le_of_admitted {c : Config} (h : c.admitted = true) : c.payloadLen ≤ payloadLen := by
  simp only [Config.admitted, Bool.and_eq_true, decide_eq_true_eq] at h
  tauto

/-- TICK and BCAST_MARK are the operations that have a `now`. -/
theorem timeFits_of_now_lt {c : Config} {i : Instr}
    (h : ∀ now, i = .tick now ∨ i = .bcastMark now → now.toNat < 2 ^ c.clockW) : timeFits c i = true := by
  cases i with
  | tick now => exact decide_eq_true (h now (.inl rfl))
  | bcastMark now => exact decide_eq_true (h now (.inr rfl))
  | uartByte | usbCmd | radioSet | readStatus | cmdSet | cmdIgnore => rfl

/-- Settles O48: the premises are those under which each operation of a block completes, and this hardware's clock holds every
`now`. -/
theorem everyOperationCompletes : Obligations.EveryOperationCompletes := by
  constructor
  · intro st i hplen
    have hp : PlenOk Config.lce st := fun hf => Nat.lt_succ_of_le (hplen hf)
    obtain ⟨t, ht⟩ := execWith_completes (payloadLen_le_of_admitted lce_admitted) hp (timeFits_lce i)
    exact ⟨t, (execWith_lce i st).symm.trans ht⟩
  · intro c st i hc hp hnow
    exact execWith_completes (payloadLen_le_of_admitted hc) hp (timeFits_of_now_lt hnow)

/-- The invariants hold R26 item 5, so each operation completes, and it keeps them for the next one. -/
theorem runEventsWith_completes {c : Config} (hc : c.admitted = true) {evs : List Instr} {st : State} (h : Inv c st)
    (htime : ∀ i ∈ evs, timeFits c i = true) : ∃ t, runEventsWith c evs st = .next t ∧ Inv c t := by
  induction evs generalizing st with
  | nil => exact ⟨st, rfl, h⟩
  | cons i is ih =>
    obtain ⟨hi, his⟩ := List.forall_mem_cons.mp htime
    obtain ⟨u, hu⟩ := execWith_completes (payloadLen_le_of_admitted hc) h.plenBound hi
    obtain ⟨t, ht, hinv⟩ := ih ((execWith_effect hu).keeps_inv hc h) his
    exact ⟨t, by rw [runEventsWith_cons, hu, andThen_next, ht], hinv⟩

/-- Settles O49: power-on has the invariants, and from there a run completes whatever the order of its operations, that of an
interleaving included. -/
theorem everyInterleavingRunsToItsEnd : Obligations.EveryInterleavingRunsToItsEnd := by
  constructor
  · intro c d _ evs hc hd _ htime
    exact runEventsWith_completes hc (powerOn_inv hc hd) htime
  · intro d _ evs hframe _
    have hd : d.fits Config.lce = true := by
      simp only [Draw.fits, Bool.and_eq_true, decide_eq_true_eq]
      exact ⟨hframe, fits_lce d.btStamp⟩
    exact runEventsWith_completes lce_admitted (powerOn_inv lce_admitted hd) fun i _ => timeFits_lce i

/-! ### The coordinator side (R115) -/

theorem broadcastDue_lce_iff {now : Clock} {st : State} :
    broadcastDue Config.lce now (statusOf st) = true ↔
      st.role = .coordinator ∧ (st.btDue = true ∨ 5000 ≤ (now - st.btStamp).toNat) := by
  rw [broadcastDue, Bool.and_eq_true, Bool.or_eq_true, decide_eq_true_iff, decide_eq_true_iff, elapsed_lce]
  rfl

/-- A check that finds no broadcast due, or no slot free, is a READ_STATUS (R115). -/
theorem coord_only_reads {c : Config} {n : Node} {now : Clock} {slotFree : Bool}
    (h : ¬ (broadcastDue c now (statusOf n.lce) = true ∧ slotFree = true)) :
    n.coord c now slotFree = .next { n with lce := n.lce.logStatus (statusOf n.lce) } := by
  have hnone : coordPacket c now slotFree (statusOf (n.lce.logStatus (statusOf n.lce))) = none :=
    if_neg (by rw [Bool.and_eq_true]; exact h)
  rw [Node.coord, execWith_readStatus, andThen_next, hnone]

/-- Settles O55: a check broadcasts, with the two registers of the timer written, or it only reads. -/
theorem coordinatorBroadcastsWhenDue : Obligations.CoordinatorBroadcastsWhenDue := by
  intro now slotFree n
  by_cases h : n.lce.role = .coordinator ∧ (n.lce.btDue = true ∨ 5000 ≤ (now - n.lce.btStamp).toNat) ∧ slotFree = true
  · obtain ⟨hrole, hold, rfl⟩ := id h
    exact ⟨_, coord_broadcasts (broadcastDue_lce_iff.mpr ⟨hrole, hold⟩), fun _ => ⟨rfl, rfl, rfl⟩, fun hn => absurd h hn,
      rfl, rfl, rfl, rfl⟩
  · have hreads : ¬ (broadcastDue Config.lce now (statusOf n.lce) = true ∧ slotFree = true) := by
      rwa [broadcastDue_lce_iff, and_assoc]
    exact ⟨_, coord_only_reads hreads, fun hd => absurd hd h, fun _ => ⟨rfl, rfl, rfl⟩, rfl, rfl, rfl, rfl⟩

/-! ### The peer side (R116) -/

theorem packetValid_lce_iff {p : Bytes7} :
    packetValid Config.lce p = true ↔ p.b0 = 0x06#8 ∧ p.b1 = 0x57#8 ∧ p.b2 = 0x78#8 ∧ p.b3 = 0x53#8 := by
  simp [packetValid, and_assoc]

section
variable {c : Config} {n : Node} {p : Bytes7} {rest : List Bytes7}

theorem peer_of_valid (hrx : n.rx = p :: rest) (hv : packetValid c p = true) :
    n.peer c = .next { n with lce := n.lce.setTarget c ⟨p.b4, p.b5, p.b6⟩, rx := rest } := by
  simp only [Node.peer, hrx, if_pos hv, execWith_radioSet, andThen_next]

theorem peer_of_invalid (hrx : n.rx = p :: rest) (hv : ¬ packetValid c p = true) :
    n.peer c = .next { n with rx := rest } := by
  simp only [Node.peer, hrx, if_neg hv]

end

/-- Settles O57: the header check is the packet's validity, and RADIO_SET is SET_TARGET of the three colour bytes. -/
theorem peerAppliesValidPackets : Obligations.PeerAppliesValidPackets := by
  intro p rest n hrx
  rw [← packetValid_lce_iff]
  exact ⟨fun hv => ⟨_, exec_radioSet p.b4 p.b5 p.b6 n.lce, peer_of_valid hrx hv⟩, peer_of_invalid hrx⟩

/-- What a coordinator sends, a peer of the same configuration takes as a colour packet (30_encoding.md R60). -/
theorem packetValid_packetOf (c : Config) (x : Hsv) : packetValid c (packetOf c x) = true := by
  simp [packetValid, packetOf]

/-- Settles O58: the packet is valid and carries the colour in its last bytes, and the clamp leaves a hue in range alone. -/
theorem broadcastCarriesTheTargetToAPeer : Obligations.BroadcastCarriesTheTargetToAPeer := by
  intro x rest n hh hrx
  refine ⟨_, peer_of_valid hrx (packetValid_packetOf Config.lce x), ?_, rfl⟩
  rw [setTarget_eq]
  exact congrArg (Hsv.mk · x.s x.v) (clampHue_of_le hh)

/-! ### The coordinator's round (R106, R111) -/

/-- No operation clears ROLE (10_state.md R16). -/
theorem execWith_keeps_coordinator {c : Config} {i : Instr} {st t : State} (hrole : st.role = .coordinator)
    (h : execWith c i st = .next t) : t.role = .coordinator := by
  obtain hk | ⟨-, -, -, -, hco⟩ := (execWith_effect h).role_cases
  · exact hk.trans hrole
  · exact hco

/-- Settles O59: the round's events keep ROLE, so its check is the coordinator side, which leaves the received packets. -/
theorem coordinatorsIgnoreReceivedPackets : Obligations.CoordinatorsIgnoreReceivedPackets := by
  intro r n m hrole h
  obtain ⟨st, hrun, hcheck⟩ := andThen_eq_next.mp h
  have hst : st.role = .coordinator := runEventsWith_induction (fun _ _ _ => execWith_keeps_coordinator) hrole hrun
  obtain ⟨m', hcoord, -, -, hrx, -, hrole', -⟩ :=
    coordinatorBroadcastsWhenDue r.coordNow r.slotFree { n with lce := st }
  rw [radioCheck_coordinator hst, hcoord] at hcheck
  cases hcheck
  exact ⟨hrx, hrole'.trans hst⟩

end Sys2Proof.Machine
end

section
/-! PROOFS. 70_reset_and_hazards.md: a clock that goes backwards (R123), and a block with no event presented (R126). -/

namespace Sys2Proof.Machine

open Sys2Proof

/-! ### A clock that goes backwards (R123) -/

/-- Going back by `k` has the elapsed time of going on by `2^32 - k`, whatever the stamp (41_animation_engine.md R74). -/
theorem toNat_backward_elapsed (stamp : Clock) {k : Nat} (hk : 1 ≤ k) (hk' : k < 2 ^ 32) :
    (stamp - BitVec.ofNat 32 k - stamp).toNat = 2 ^ 32 - k := by
  rw [sub_sub_cancel_left, BitVec.toNat_neg, BitVec.toNat_ofNat, Nat.mod_eq_of_lt hk',
    Nat.mod_eq_of_lt (Nat.sub_lt (Nat.two_pow_pos _) hk)]

/-- Settles O18: `2^32 - k` is at least RATE_MS, so the TICK goes past the limiter and writes T_LAST. -/
theorem backwardClockPassesTheLimiter : Obligations.BackwardClockPassesTheLimiter := by
  intro st k hk hk'
  have hpast : 4 ≤ (st.tLast - BitVec.ofNat 32 k - st.tLast).toNat := by
    rw [toNat_backward_elapsed st.tLast hk (by omega)]
    omega
  exact ⟨_, exec_tick_past hpast, pastLimiter_tLast _ _ _⟩

/-! ### No event presented (R126) -/

/-- Settles O44: a step with no word to take is `idle`, which answers its state (log 4). -/
theorem stepWithoutEventWaits : Obligations.StepWithoutEventWaits :=
  fun _ hnil => step_nil hnil

end Sys2Proof.Machine
end
